-- ==== Sys2Proof/Word.lean ====
section
/-! DEFINITION. Fixed widths of the block (00_scope.md R10) and the two levels of the output line (R16). -/

namespace Sys2Proof

/-- One colour channel, 8 bits (R10). -/
abbrev Byte := BitVec 8

/-- One pixel, 24 bits, stored `{r, g, b}` with `r` most significant (R10, R20, R85). -/
abbrev Pixel := BitVec 24

/-- A tick, an unsigned 32-bit count of milliseconds (R10); differences wrap (R12). -/
abbrev Tick := BitVec 32

/-- The format C command word on `cmd[43:0]` (R80). -/
abbrev CmdWord := BitVec 44

/-- The format S bundle `{reading[9:0], tick[31:0], last_touch_tick[31:0]}` (R83). -/
abbrev SampleWord := BitVec 74

/-- The format K bundle `{on, brightness[6:0], hue[7:0]}` (R84). -/
abbrev RenderWord := BitVec 16

/-- A waveform: the `dout` level of each cycle in order, `true` for level 1 (R16). -/
abbrev Wave := List Bool

end Sys2Proof
end

