-- ==== Sys2Proof/Config.lean ====
section
/-! DEFINITION. The implementation parameters of 00_scope.md R9, as plain data a machine carries unchanged,
and the one free value the spec leaves open (R148). -/

namespace Sys2Proof

/-- A colour channel name (R86, R87). -/
inductive Channel where
  | R
  | G
  | B
  deriving DecidableEq, Repr

/-- `BYTE_ORDER`, a permutation of (R, G, B): one constructor per permutation, first letter sent first (R9, R86). -/
inductive ByteOrder where
  | grb
  | rgb
  | brg
  | bgr
  | rbg
  | gbr
  deriving DecidableEq, Repr

/-- The parameters of R9. A field has a default here only where R9 gives one; the OPEN ones have none. -/
structure Params where
  /-- `F_CLK_HZ`, hertz; no rule of the step reads it, it converts cycles to time (R9). -/
  fClkHz : Nat
  /-- `N_LEDS`, pixels in the frame. -/
  nLeds : Nat
  /-- `BYTE_ORDER`. -/
  byteOrder : ByteOrder := .grb
  /-- `T0H`, high cycles of a 0 bit. -/
  t0h : Nat
  /-- `T0L`, low cycles of a 0 bit. -/
  t0l : Nat
  /-- `T1H`, high cycles of a 1 bit. -/
  t1h : Nat
  /-- `T1L`, low cycles of a 1 bit. -/
  t1l : Nat
  /-- `TRESET`, low cycles of the latch interval. -/
  tReset : Nat
  /-- `TOUCH_GUARD_MS`, ticks. -/
  touchGuardMs : Nat := 500
  /-- `CLAP_THRESHOLD`, on the 0 to 1023 scale. -/
  clapThreshold : Nat := 300
  /-- `INTER_MIN`, ticks. -/
  interMin : Nat := 200
  /-- `INTER_MAX`, ticks. -/
  interMax : Nat := 700
  /-- `CLAP_TO_TOUCH_MIN`, ticks. -/
  clapToTouchMin : Nat := 100
  /-- `AVG_SHIFT`, the K of R114. -/
  avgShift : Nat := 16
  /-- `AVG_RESET`, integer part of the reset average. -/
  avgReset : Nat := 0
  deriving DecidableEq, Repr

/-- The constraints of R9 on the parameters (`BYTE_ORDER` meets its own by its type). -/
def Params.wf (p : Params) : Bool :=
  decide (1 ≤ p.fClkHz) && decide (1 ≤ p.nLeds) && decide (p.nLeds ≤ 65536) &&
  decide (1 ≤ p.t0h) && decide (1 ≤ p.t0l) && decide (1 ≤ p.t1h) && decide (1 ≤ p.t1l) &&
  decide (p.t1h ≠ p.t0h) && decide (1 ≤ p.tReset) &&
  decide (p.touchGuardMs < 2 ^ 32) && decide (p.clapThreshold ≤ 1023) &&
  decide (p.interMin ≤ p.interMax) && decide (p.interMax < 2 ^ 32) &&
  decide (p.clapToTouchMin < 2 ^ 32) &&
  decide (1 ≤ p.avgShift) && decide (p.avgShift ≤ 16) && decide (p.avgReset ≤ 1023)

/-- The set `TINY` of R9. R9 gives it no clock; 8 000 000 is the frequency its examples use. -/
def Params.tiny (nLeds : Nat) : Params :=
  { fClkHz := 8000000, nLeds := nLeds, t0h := 1, t0l := 2, t1h := 2, t1l := 1, tReset := 4 }

/-- The set `REF8` of R9. -/
def Params.ref8 (nLeds : Nat) : Params :=
  { fClkHz := 8000000, nLeds := nLeds, t0h := 3, t0l := 7, t1h := 6, t1l := 4, tReset := 400 }

/-- The illustrative set at 16 MHz of 30_encoding.md R95. -/
def Params.at16MHz (nLeds : Nat) : Params :=
  { fClkHz := 16000000, nLeds := nLeds, t0h := 6, t0l := 14, t1h := 13, t1l := 7, tReset := 800 }

/-- The illustrative set at 20 MHz of 30_encoding.md R95. -/
def Params.at20MHz (nLeds : Nat) : Params :=
  { fClkHz := 20000000, nLeds := nLeds, t0h := 8, t0l := 17, t1h := 16, t1l := 9, tReset := 1000 }

/-- FREE VALUE (R148, log entry 1): the outputs `{r, g, b}` of a RENDER outside its domain with `on = 1`, "any
three 8-bit values, possibly different each cycle". It has no body; the argument is the model's draw counter. -/
opaque Config.freeColour : Nat → BitVec 24

end Sys2Proof
end

