-- ==== Sys2Proof/Syntax.lean ====
section
/-! DEFINITION. The ten operations of spec/opcode_table.json (00_scope.md R3, 30_encoding.md R96). -/

namespace Sys2Proof

/-- An operation of a sub-block. Operands are the fields the operation reads (R81, R83, R84); the unread fields of
a command word are ignored and do not appear. -/
inductive Instr where
  /-- NOP (R176); also what a reserved code behaves as (R97). -/
  | nop
  /-- LOAD `idx, r, g, b` (R161). -/
  | load (idx : Nat) (r g b : Byte)
  /-- FILL `r, g, b` (R162). -/
  | fill (r g b : Byte)
  /-- INVALIDATE (R163). -/
  | invalidate
  /-- REFRESH (R164). -/
  | refresh
  /-- SAMPLE `reading, tick, last_touch_tick` (R110). -/
  | sample (reading : Nat) (tick lastTouchTick : Tick)
  /-- RENDER `on, brightness, hue` (R140). -/
  | render (on : Bool) (brightness hue : Nat)
  /-- SYM0, the wire symbol of a 0 bit (R91). -/
  | sym0
  /-- SYM1, the wire symbol of a 1 bit (R92). -/
  | sym1
  /-- SYMLATCH, the latch interval (R93). -/
  | symLatch
  deriving DecidableEq, Repr

end Sys2Proof
end

