-- ==== Sys2Proof/WellFormed.lean ====
section
/-! DEFINITION. Which terms of Instr an encoding can hold: each operand within its field's width (10_state.md R43,
R44; 30_encoding.md R80, R83, R84). The domain of RENDER (R148) is no part of this: a bundle outside it is encoded,
decoded and run like any other. -/

namespace Sys2Proof

/-- `idx` fits `cmd[39:24]` (R80). -/
def idxFits (idx : Nat) : Bool := decide (idx < 2 ^ 16)

/-- `reading` is an "integer in [0,1023]" (R83). -/
def readingFits (reading : Nat) : Bool := decide (reading < 2 ^ 10)

/-- `brightness` fits `brightness[6:0]` (R84). -/
def brightnessFits (brightness : Nat) : Bool := decide (brightness < 2 ^ 7)

/-- `hue` fits `hue[7:0]` (R84). -/
def hueFits (hue : Nat) : Bool := decide (hue < 2 ^ 8)

/-- Every operand fits its field. -/
def Instr.wf : Instr → Bool
  | .nop => true
  | .load idx _ _ _ => idxFits idx
  | .fill _ _ _ => true
  | .invalidate => true
  | .refresh => true
  | .sample reading _ _ => readingFits reading
  | .render _ brightness hue => brightnessFits brightness && hueFits hue
  | .sym0 => true
  | .sym1 => true
  | .symLatch => true

end Sys2Proof
end

