-- ==== Sys2Proof/Decode.lean ====
section
/-! DEFINITION. The four formats of 30_encoding.md (C, S, K on the input ports, W on `dout`): a total decoder that
rejects by name, then the encoder written from the same tables. -/

namespace Sys2Proof

/-- What stands on a port: a word of format C, S or K, or a stretch of the output waveform (format W). -/
inductive PortWord where
  | cmd (w : CmdWord)
  | sample (w : SampleWord)
  | render (w : RenderWord)
  | wire (w : Wave)
  deriving DecidableEq, Repr

/-- Why a port word is no operation. Only a waveform can be refused: every word of formats C, S and K stands for
an operation (R97, R83, R84). -/
inductive DecodeError where
  /-- The waveform is none of SYM0, SYM1, SYMLATCH (R98: the block emits no other run lengths). Safe. -/
  | notASymbol
  deriving DecidableEq, Repr

/-! ## Format W: symbol durations and waveforms -/

/-- `H^n` (R16). -/
def highRun (n : Nat) : Wave := List.replicate n true

/-- `L^n` (R16). -/
def lowRun (n : Nat) : Wave := List.replicate n false

/-- `TH(β)` (R160). -/
def th (p : Params) (bit : Bool) : Nat := if bit then p.t1h else p.t0h

/-- `TL(β)` (R160). -/
def tl (p : Params) (bit : Bool) : Nat := if bit then p.t1l else p.t0l

/-- `TBIT(β) = TH(β) + TL(β)` (R160). -/
def tbit (p : Params) (bit : Bool) : Nat := th p bit + tl p bit

/-- `sym(β)`: SYM0 for 0, SYM1 for 1 (R91, R92, R94). -/
def symWave (p : Params) (bit : Bool) : Wave := highRun (th p bit) ++ lowRun (tl p bit)

/-- SYMLATCH (R93). -/
def latchWave (p : Params) : Wave := lowRun p.tReset

/-! ## Decoder -/

/-- `cmd[43:40]` (R80). -/
def cmdOp (w : CmdWord) : BitVec 4 := w.extractLsb' 40 4

/-- `cmd[39:24]` (R80). -/
def cmdIdx (w : CmdWord) : BitVec 16 := w.extractLsb' 24 16

/-- `cmd[23:16]` (R80). -/
def cmdR (w : CmdWord) : Byte := w.extractLsb' 16 8

/-- `cmd[15:8]` (R80). -/
def cmdG (w : CmdWord) : Byte := w.extractLsb' 8 8

/-- `cmd[7:0]` (R80). -/
def cmdB (w : CmdWord) : Byte := w.extractLsb' 0 8

/-- The command a format C word stands for (R80, R81, R82); codes 5 to 15 behave exactly as NOP (R97). -/
def decodeCmd (w : CmdWord) : Instr :=
  match (cmdOp w).toNat with
  | 0 => .nop
  | 1 => .load (cmdIdx w).toNat (cmdR w) (cmdG w) (cmdB w)
  | 2 => .fill (cmdR w) (cmdG w) (cmdB w)
  | 3 => .invalidate
  | 4 => .refresh
  | _ => .nop

/-- The SAMPLE a format S bundle stands for (R83). -/
def decodeSample (w : SampleWord) : Instr :=
  .sample (w.extractLsb' 64 10).toNat (w.extractLsb' 32 32) (w.extractLsb' 0 32)

/-- The RENDER a format K bundle stands for (R84). -/
def decodeRender (w : RenderWord) : Instr :=
  .render (w.getLsbD 15) (w.extractLsb' 8 7).toNat (w.extractLsb' 0 8).toNat

/-- The symbol a waveform is, if it is one (R91, R92, R93). -/
def decodeWave (p : Params) (w : Wave) : Except DecodeError Instr :=
  if w = symWave p false then .ok .sym0
  else if w = symWave p true then .ok .sym1
  else if w = latchWave p then .ok .symLatch
  else .error .notASymbol

/-- The operation a port word stands for. -/
def decode (p : Params) : PortWord → Except DecodeError Instr
  | .cmd w => .ok (decodeCmd w)
  | .sample w => .ok (decodeSample w)
  | .render w => .ok (decodeRender w)
  | .wire w => decodeWave p w

/-! ## Encoder -/

/-- A format C word from its five fields (R80). -/
def cmdWord (op : BitVec 4) (idx : BitVec 16) (r g b : Byte) : CmdWord := op ++ idx ++ r ++ g ++ b

/-- A format S bundle from its three fields (R83). -/
def sampleWord (reading : BitVec 10) (tick lastTouchTick : Tick) : SampleWord := reading ++ tick ++ lastTouchTick

/-- A format K bundle from its three fields (R84). -/
def renderWord (on : Bool) (brightness : BitVec 7) (hue : BitVec 8) : RenderWord :=
  BitVec.ofBool on ++ brightness ++ hue

/-- The word of an operation, unread fields at their canonical value zero (R81, R100). -/
def encode (p : Params) : Instr → PortWord
  | .nop => .cmd (cmdWord 0#4 0#16 0#8 0#8 0#8)
  | .load idx r g b => .cmd (cmdWord 1#4 (BitVec.ofNat 16 idx) r g b)
  | .fill r g b => .cmd (cmdWord 2#4 0#16 r g b)
  | .invalidate => .cmd (cmdWord 3#4 0#16 0#8 0#8 0#8)
  | .refresh => .cmd (cmdWord 4#4 0#16 0#8 0#8 0#8)
  | .sample reading tick lastTouchTick => .sample (sampleWord (BitVec.ofNat 10 reading) tick lastTouchTick)
  | .render on brightness hue => .render (renderWord on (BitVec.ofNat 7 brightness) (BitVec.ofNat 8 hue))
  | .sym0 => .wire (symWave p false)
  | .sym1 => .wire (symWave p true)
  | .symLatch => .wire (latchWave p)

/-! ## Words numbered as spec/opcode_table.json numbers them -/

/-- The port word of a table row: the row's width tells its format (44 bits, in whole bytes 48, format C; 74 or 80
format S; 16 format K). A number that does not fit the port, or any other width, is no port word; the rows of format
W have no bits in the table (log entry 9). -/
def tablePortWord (nbits w : Nat) : Option PortWord :=
  if (nbits = 44 ∨ nbits = 48) ∧ w < 2 ^ 44 then some (.cmd (BitVec.ofNat 44 w))
  else if (nbits = 74 ∨ nbits = 80) ∧ w < 2 ^ 74 then some (.sample (BitVec.ofNat 74 w))
  else if nbits = 16 ∧ w < 2 ^ 16 then some (.render (BitVec.ofNat 16 w))
  else none

/-- The operation the decoder reads from a table word. -/
def decodeTableWord (nbits w : Nat) : Option Instr :=
  match tablePortWord nbits w with
  | some (.cmd c) => some (decodeCmd c)
  | some (.sample c) => some (decodeSample c)
  | some (.render c) => some (decodeRender c)
  | some (.wire _) => none
  | none => none

end Sys2Proof
end

