-- ==== Sys2Proof/Machine/State.lean ====
section
/-! DEFINITION. What the block holds (10_state.md R20 to R30), the inputs of a cycle (R40 to R44), the ways a step
can stop, and the state after reset (R47). -/

namespace Sys2Proof.Machine

/-- `PHASE` (R22). -/
inductive Phase where
  | idle
  | high
  | low
  | latch
  deriving DecidableEq, Repr

/-- `CLAP_STATE` (R27). -/
inductive ClapState where
  | noClap
  | firstClap
  | doubleClap
  deriving DecidableEq, Repr

/-- The frame buffer as (index, pixel) pairs. The addressable unit is a pixel of 24 bits (20_memory.md R60); an
index that is not listed holds 24'h000000, the reset content of R47. -/
abbrev Memory := List (Nat × Pixel)

/-- State of LedDriver. -/
structure Led where
  /-- `PIX` (R20). -/
  pix : Memory
  /-- `SHIFT` (R21). -/
  shift : BitVec 24
  /-- `PHASE` (R22). -/
  phase : Phase
  /-- `LED_IDX` (R23). -/
  ledIdx : BitVec 16
  /-- `BIT_IDX` (R24). -/
  bitIdx : BitVec 5
  /-- `CNT`, "a model may use an unbounded natural" (R25). -/
  cnt : Nat
  /-- `DISPLAYED` (R26). -/
  displayed : Bool
  deriving DecidableEq, Repr

/-- State of ClapDetector. -/
structure Clap where
  /-- `CLAP_STATE` (R27). -/
  clapState : ClapState
  /-- `LAST_CLAP_TICK` (R28). -/
  lastClapTick : Tick
  /-- `ACC` (R29). -/
  acc : BitVec 26
  /-- `EVENT` (R30). -/
  event : Bool
  deriving DecidableEq, Repr

/-- The triple on the ColorEngine outputs (R43). -/
structure Colour where
  r : Byte
  g : Byte
  b : Byte
  deriving DecidableEq, Repr

/-- The inputs of one cycle, `I_k` of 00_scope.md R6 (10_state.md R40, R41, R43, R44). -/
structure Inputs where
  rst : Bool
  cmdValid : Bool
  cmd : CmdWord
  sampleValid : Bool
  reading : BitVec 10
  tick : Tick
  lastTouchTick : Tick
  on : Bool
  brightness : BitVec 7
  hue : BitVec 8
  deriving DecidableEq, Repr

/-- One entry of what the host will drive (log entry 2). -/
inductive Stimulus where
  /-- One cycle with these inputs. -/
  | cycle (i : Inputs)
  /-- `cmd_valid = 1` with this word in every cycle until the first in which it is accepted (30_encoding.md R100). -/
  | hold (w : CmdWord)
  deriving DecidableEq, Repr

/-- The whole machine. `params` is fixed for a run (R37); `stimulus`, `rgb` and `draws` are the model's own (log
entries 1, 2 and 5). -/
structure State where
  /-- The parameters of R9, carried unchanged (log entry 4). -/
  params : Params
  /-- LedDriver. -/
  led : Led
  /-- ClapDetector. -/
  clap : Clap
  /-- What the host drives in this cycle and the next ones, first entry first. -/
  stimulus : List Stimulus
  /-- The outputs `r`, `g`, `b` in the cycle just run. -/
  rgb : Colour
  /-- How many values the free value of R148 has supplied. -/
  draws : Nat
  deriving DecidableEq, Repr

/-- Why the machine stops. The block itself has no fault state (60_exceptions.md R200). -/
inductive Fault where
  /-- A pixel fetch (R165, R171) at an index at or above `N_LEDS`, an address that does not exist (20_memory.md R61).
  Raised by the fetch in states outside R38 or under parameters outside R9 only, never in a reachable state. Safe. -/
  | pixelOutOfRange (idx : Nat)
  deriving DecidableEq, Repr

/-- Why an operation has no meaning. -/
inductive Refusal where
  /-- The operation is not modelled yet; no arm of exec answers so. Safe. -/
  | notModelled (mnemonic : String)
  deriving DecidableEq, Repr

/-- What a step answers. -/
abbrev Result := Host.Outcome State Fault Refusal

/-- LedDriver's column of the table of R47. -/
def Led.reset (p : Params) : Led :=
  { pix := [], shift := 0#24, phase := .latch, ledIdx := 0#16, bitIdx := 0#5, cnt := p.tReset - 1, displayed := false }

/-- ClapDetector's column of the table of R47. -/
def Clap.reset (p : Params) : Clap :=
  { clapState := .noClap, lastClapTick := 0#32, acc := BitVec.ofNat 26 (p.avgReset <<< 16), event := false }

/-- The reset state `S_0` under parameters `p` (R47), with nothing queued by the host. -/
def State.resetWith (p : Params) : State :=
  { params := p, led := Led.reset p, clap := Clap.reset p, stimulus := [], rgb := ⟨0#8, 0#8, 0#8⟩, draws := 0 }

/-- The machine right after reset, under the parameter set REF8 of R9 with three pixels (log entry 4). -/
def State.reset : State := State.resetWith (Params.ref8 3)

end Sys2Proof.Machine
end

