-- ==== Sys2Proof/Machine/Operands.lean ====
section
/-! DEFINITION. Operand forms: the arithmetic primitives of 00_scope.md R12, the pixel formats of 30_encoding.md R85
to R90, and the bits of a frame in wire order (R94). -/

namespace Sys2Proof.Machine

/-- `absdiff(a, b)` (R12). -/
def absdiff (a b : Nat) : Nat := if a ≥ b then a - b else b - a

/-- `clamp(x, lo, hi)` (R12). -/
def clamp (x lo hi : Nat) : Nat := min (max x lo) hi

/-- `(a - b) mod 2^32` as an unsigned number (R12). -/
abbrev tickDiff (a b : Tick) : Nat := (a - b).toNat

/-- A pixel `{r, g, b}` (R85). -/
def pixel (r g b : Byte) : Pixel := r ++ g ++ b

/-- `chan(p, c)` (R87). -/
def chan (p : Pixel) : Channel → Byte
  | .R => p.extractLsb' 16 8
  | .G => p.extractLsb' 8 8
  | .B => p.extractLsb' 0 8

/-- The channel sent first, second and third (R86). -/
def byteOrderChannels : ByteOrder → Channel × Channel × Channel
  | .grb => (.G, .R, .B)
  | .rgb => (.R, .G, .B)
  | .brg => (.B, .R, .G)
  | .bgr => (.B, .G, .R)
  | .rbg => (.R, .B, .G)
  | .gbr => (.G, .B, .R)

/-- `wire(p)`, the 24 bits of a pixel in the order they are sent (R88). -/
def wire (o : ByteOrder) (p : Pixel) : BitVec 24 :=
  chan p (byteOrderChannels o).1 ++ chan p (byteOrderChannels o).2.1 ++ chan p (byteOrderChannels o).2.2

/-- The bit on the wire, `SHIFT[23]` (R21). -/
def wireBit (w : BitVec 24) : Bool := w.getLsbD 23

/-- `wire(p)[23 - j]` for `j = 0 .. 23` (R89). -/
def pixelBits (o : ByteOrder) (p : Pixel) : List Bool :=
  (List.range 24).map fun j => (wire o p).getLsbD (23 - j)

end Sys2Proof.Machine
end

