-- ==== Sys2Proof/Machine/Flags.lean ====
section
/-! DEFINITION. The two stored flags and the status outputs computed from the state (10_state.md R34, R35, R45). -/

namespace Sys2Proof.Machine

/-- `DISPLAYED <- 0` (R161, R162, R163). -/
def Led.clearDisplayed (l : Led) : Led := { l with displayed := false }

/-- `DISPLAYED <- 1` (R172). -/
def Led.setDisplayed (l : Led) : Led := { l with displayed := true }

/-- `EVENT <- confirm` (R121). -/
def Clap.setEvent (c : Clap) (confirm : Bool) : Clap := { c with event := confirm }

/-- `dout` (R45). -/
def State.dout (s : State) : Bool := decide (s.led.phase = .high)

/-- `irq_mask` (R45). -/
def State.irqMask (s : State) : Bool := decide (s.led.phase = .high) || decide (s.led.phase = .low)

/-- `cmd_ready` (R45). -/
def State.cmdReady (s : State) : Bool := decide (s.led.phase = .idle)

/-- `busy` (R45). -/
def State.busy (s : State) : Bool := decide (s.led.phase ≠ .idle)

/-- `displayed` (R45). -/
def State.displayed (s : State) : Bool := s.led.displayed

/-- `event` (R45). -/
def State.event (s : State) : Bool := s.clap.event

/-- The system's tick interrupt may be taken: `not irq_mask`, where the integrator wires it so (60_exceptions.md R206). -/
def State.preemptionEnabled (s : State) : Bool := !s.irqMask

end Sys2Proof.Machine
end

