-- ==== Sys2Proof/Machine/Ops.lean ====
section
/-! DEFINITION. Named operations over the frame buffer (00_scope.md R14, 20_memory.md R60 to R64) and over the
machine, among them the start and the end of a transmission, the block's nearest to taking an exception and
returning from one (60_exceptions.md R208, R209). -/

namespace Sys2Proof.Machine

/-! ## Frame buffer -/

/-- What the buffer holds at an index; unlisted indices hold 24'h000000. -/
def Memory.read (m : Memory) (i : Nat) : Pixel :=
  match m with
  | [] => 0#24
  | (j, v) :: rest => if i = j then v else Memory.read rest i

/-- Put an entry before the first entry with a larger index. -/
def Memory.insert (m : Memory) (i : Nat) (v : Pixel) : Memory :=
  match m with
  | [] => [(i, v)]
  | (j, w) :: rest => if i < j then (i, v) :: (j, w) :: rest else (j, w) :: Memory.insert rest i v

/-- Drop what is listed at an index. -/
def Memory.erase (m : Memory) (i : Nat) : Memory := m.filter fun c => decide (c.1 ≠ i)

/-- Store a pixel at an index, listing no entry that reads as an unlisted one does. -/
def Memory.write (m : Memory) (i : Nat) (v : Pixel) : Memory :=
  if v = 0#24 then Memory.erase m i else Memory.insert (Memory.erase m i) i v

/-- Store one pixel at every index below `n` (R64: one access). -/
def Memory.fill (m : Memory) (n : Nat) (v : Pixel) : Memory :=
  (if v = 0#24 then [] else (List.range n).map fun i => (i, v)) ++ m.filter fun c => decide (n ≤ c.1)

/-- The canonical form: indices strictly rising and no entry equal to what an unlisted index reads as. -/
def Memory.wf (m : Memory) : Bool :=
  decide (m.Pairwise fun a b => a.1 < b.1) && m.all fun c => decide (c.2 ≠ 0#24)

/-- `MemRead(i, 3)`, defined for `i < N_LEDS` (R14). -/
def fetchPixel (p : Params) (m : Memory) (i : Nat) : Except Fault Pixel :=
  if i < p.nLeds then .ok (Memory.read m i) else .error (.pixelOutOfRange i)

/-- `MemWrite(i, 3, v)`, which "does nothing for i ≥ N_LEDS" (R14). -/
def storePixel (p : Params) (m : Memory) (i : Nat) (v : Pixel) : Memory :=
  if i < p.nLeds then Memory.write m i v else m

/-! ## Sequencing -/

/-- Two effects of one cycle, one after the other. -/
def andThen (o : Result) (f : State → Result) : Result :=
  match o with
  | .next s => f s
  | .fault r => .fault r
  | .refused r => .refused r

/-- An effect on LedDriver alone (00_scope.md R4). -/
def onLed (s : State) (f : Params → Led → Except Fault Led) : Result :=
  match f s.params s.led with
  | .ok l => .next { s with led := l }
  | .error r => .fault r

/-- An effect on ClapDetector alone (00_scope.md R4). -/
def onClap (s : State) (f : Params → Clap → Clap) : Result :=
  .next { s with clap := f s.params s.clap }

/-- A command's effect where it is accepted; presented while PHASE is not IDLE it is "neither executed nor
remembered" (10_state.md R41). -/
def whenReady (f : Params → Led → Except Fault Led) (p : Params) (l : Led) : Except Fault Led :=
  if l.phase = .idle then f p l else .ok l

/-- The first cycle of the symbol of `w[23]`, with `w` in SHIFT: `SHIFT <- w`, `PHASE <- HIGH`,
`CNT <- TH(w[23]) - 1` (R165, R170, R171). -/
def startSymbol (p : Params) (l : Led) (w : BitVec 24) : Led :=
  { l with shift := w, phase := .high, cnt := th p (wireBit w) - 1 }

/-- Start of a pixel: fetch it and begin its first symbol (R165, R171). -/
def startPixel (p : Params) (l : Led) (i : Nat) : Except Fault Led :=
  match fetchPixel p l.pix i with
  | .ok v => .ok (startSymbol p { l with ledIdx := BitVec.ofNat 16 i, bitIdx := 0#5 } (wire p.byteOrder v))
  | .error r => .error r

/-- Start of a transmission (R165): entry to the critical section; nothing is saved (R208). -/
def startTransmission (p : Params) (l : Led) : Except Fault Led := startPixel p l 0

/-- End of a transmission (R172): the critical section ends by itself (R209); SHIFT, LED_IDX and BIT_IDX stay. -/
def endTransmission (p : Params) (l : Led) : Led :=
  ({ l with phase := .latch, cnt := p.tReset - 1 } : Led).setDisplayed

end Sys2Proof.Machine
end

