-- ==== Sys2Proof/Machine/ClapDetector.lean ====
section
/-! DEFINITION. ClapDetector: the operation SAMPLE and the edge without a strobe (40_clap_detector.md). -/

namespace Sys2Proof.Machine

/-- The touch guard fires (R113). -/
def guarded (p : Params) (tick lastTouchTick : Tick) : Bool :=
  decide (tickDiff tick lastTouchTick < p.touchGuardMs)

/-- The new running average as an exact number (R114); below 2^26 for a 10-bit reading (10_state.md R39). -/
def nextAverage (p : Params) (acc : BitVec 26) (reading : Nat) : Nat :=
  acc.toNat - (acc.toNat >>> p.avgShift) + (reading <<< (16 - p.avgShift))

/-- `AVG`, the integer part `ACC[25:16]` (R29). -/
def averagePart (acc : BitVec 26) : Nat := (acc.extractLsb' 16 10).toNat

/-- `detected` (R115), against the updated average. -/
def detected (p : Params) (reading : Nat) (acc : BitVec 26) : Bool :=
  decide (absdiff reading (averagePart acc) ≥ p.clapThreshold)

/-- The state machine of R116 to R120 after the average is written; `EVENT <- confirm` (R121). -/
def clapTransition (p : Params) (found : Bool) (tick : Tick) (c : Clap) : Clap :=
  match c.clapState with
  | .noClap =>
    if found then ({ c with clapState := .firstClap, lastClapTick := tick } : Clap).setEvent false
    else c.setEvent false
  | .firstClap =>
    if tickDiff tick c.lastClapTick < p.interMin then c.setEvent false
    else if tickDiff tick c.lastClapTick < p.interMax then
      if found then ({ c with clapState := .doubleClap, lastClapTick := tick } : Clap).setEvent false
      else c.setEvent false
    else ({ c with clapState := .noClap } : Clap).setEvent false
  | .doubleClap =>
    if tickDiff tick c.lastClapTick > p.clapToTouchMin then ({ c with clapState := .noClap } : Clap).setEvent true
    else c.setEvent false

/-- SAMPLE on the sub-block's state: guard first (R113), then average, detection and transition (R114 to R120). -/
def clapSample (reading : Nat) (tick lastTouchTick : Tick) (p : Params) (c : Clap) : Clap :=
  if guarded p tick lastTouchTick then ({ c with clapState := .noClap } : Clap).setEvent false
  else
    clapTransition p (detected p reading (BitVec.ofNat 26 (nextAverage p c.acc reading))) tick
      { c with acc := BitVec.ofNat 26 (nextAverage p c.acc reading) }

/-- SAMPLE (R112 with `sample_valid = 1`). -/
def execSample (reading : Nat) (tick lastTouchTick : Tick) (s : State) : Result :=
  onClap s (clapSample reading tick lastTouchTick)

/-- The edge with `sample_valid = 0`: `EVENT <- 0` and nothing else (R112). -/
def noSample (s : State) : Result := onClap s fun _ c => c.setEvent false

end Sys2Proof.Machine
end

