-- ==== Sys2Proof/Machine/ColorEngine.lean ====
section
/-! DEFINITION. ColorEngine: the function RENDER (41_color_engine.md). -/

namespace Sys2Proof.Machine

/-- The domain of RENDER with `on = 1` (R84, R148). -/
def inDomain (brightness hue : Nat) : Bool :=
  decide (1 ≤ brightness) && decide (brightness ≤ 64) && decide (hue ≤ 191)

/-- Lightness `v` (R141). -/
def lightness (brightness : Nat) : Nat := clamp ((brightness * brightness) >>> 4) 1 255

/-- Chroma `c` (R142). -/
def chroma (v : Nat) : Nat := 255 - absdiff (2 * v) 255

/-- Secondary channel `x` (R143, R144). -/
def secondary (c hue : Nat) : Nat :=
  if (hue >>> 5) % 2 = 0 then (c * (hue % 32)) >>> 5 else (c * (32 - hue % 32)) >>> 5

/-- The pre-offset triple (R145). -/
def sectorTriple (sector c x : Nat) : Nat × Nat × Nat :=
  match sector with
  | 0 => (c, x, 0)
  | 1 => (x, c, 0)
  | 2 => (0, c, x)
  | 3 => (0, x, c)
  | 4 => (x, 0, c)
  | _ => (c, 0, x)

/-- A channel after the offset, clamped (R147). -/
def withOffset (m channel : Nat) : Byte := BitVec.ofNat 8 (min (channel + m) 255)

/-- RENDER with `on = 1` inside its domain (R141 to R147). -/
def renderInDomain (brightness hue : Nat) : Colour :=
  let v := lightness brightness
  let c := chroma v
  let m := v - (c >>> 1)
  let t := sectorTriple (hue >>> 5) c (secondary c hue)
  ⟨withOffset m t.1, withOffset m t.2.1, withOffset m t.2.2⟩

/-- The `n`-th value of the free value of R148, as a triple (log entry 1). -/
def drawnColour (n : Nat) : Colour :=
  ⟨chan (Config.freeColour n) .R, chan (Config.freeColour n) .G, chan (Config.freeColour n) .B⟩

/-- `RENDER(on, brightness, hue)` (R140): black when off, R141 to R147 in the domain, the free value of this draw
outside it (R148). -/
def renderOutput (on : Bool) (brightness hue draws : Nat) : Colour :=
  if on = false then ⟨0#8, 0#8, 0#8⟩
  else if inDomain brightness hue then renderInDomain brightness hue
  else drawnColour draws

/-- How many draws of the free value one RENDER makes. -/
def renderDraws (on : Bool) (brightness hue : Nat) : Nat :=
  if on = false then 0 else if inDomain brightness hue then 0 else 1

/-- RENDER (R140). The result stands on the outputs of the cycle; no state element of the block is read or written. -/
def execRender (on : Bool) (brightness hue : Nat) (s : State) : Result :=
  .next { s with rgb := renderOutput on brightness hue s.draws, draws := s.draws + renderDraws on brightness hue }

end Sys2Proof.Machine
end

