-- ==== Sys2Proof/Machine/Cycle.lean ====
section
/-! DEFINITION. One clock cycle around the operations' meanings: the inputs the host drives, which operation each
sub-block performs on them, the reset edge (10_state.md R40 to R46, 20_memory.md R70, 70_reset_and_hazards.md R230). -/

namespace Sys2Proof.Machine

/-- The inputs of a cycle in which the host drives nothing: `cmd_valid = 0`, `sample_valid = 0`, `rst = 0`
(30_encoding.md R100), and `on = 0` on the ColorEngine inputs (log entry 3). -/
def idleInputs : Inputs :=
  { rst := false, cmdValid := false, cmd := 0#44, sampleValid := false, reading := 0#10, tick := 0#32,
    lastTouchTick := 0#32, on := false, brightness := 0#7, hue := 0#8 }

/-- A cycle that presents a command and drives nothing else (R100). -/
def cmdInputs (w : CmdWord) : Inputs := { idleInputs with cmdValid := true, cmd := w }

/-- A cycle that strobes a SAMPLE and drives nothing else (R100). -/
def sampleInputs (w : SampleWord) : Inputs :=
  { idleInputs with
    sampleValid := true, reading := w.extractLsb' 64 10, tick := w.extractLsb' 32 32,
    lastTouchTick := w.extractLsb' 0 32 }

/-- A cycle that puts a RENDER on the ColorEngine inputs and drives nothing else (R100). -/
def renderInputs (w : RenderWord) : Inputs :=
  { idleInputs with on := w.getLsbD 15, brightness := w.extractLsb' 8 7, hue := w.extractLsb' 0 8 }

/-- The inputs of the current cycle. -/
def State.inputs (s : State) : Inputs :=
  match s.stimulus with
  | [] => idleInputs
  | .cycle i :: _ => i
  | .hold w :: _ => cmdInputs w

/-- The outputs `r`, `g`, `b` in the current cycle, RENDER of its inputs (10_state.md R43), with `rst = 1` too
(70_reset_and_hazards.md R231). -/
def State.colourOutput (s : State) : Colour :=
  renderOutput s.inputs.on s.inputs.brightness.toNat s.inputs.hue.toNat s.draws

/-- The draws of the free value the current cycle's RENDER makes. -/
def State.colourDraws (s : State) : Nat :=
  renderDraws s.inputs.on s.inputs.brightness.toNat s.inputs.hue.toNat

/-- What the host still has to drive after this cycle: a held command stays until the cycle in which it is accepted
(`cmd_ready = 1`, R41, R100). -/
def State.restStimulus (s : State) : List Stimulus :=
  match s.stimulus with
  | [] => []
  | .cycle _ :: rest => rest
  | .hold w :: rest => if s.led.phase = .idle then rest else .hold w :: rest

/-- The state with this cycle's entry taken from the queue. -/
def State.advance (s : State) : State := { s with stimulus := s.restStimulus }

/-- The operation LedDriver performs in a cycle: in IDLE the command presented, if any (R41, R166), else the symbol
on the wire (R91 to R93), whatever is presented (R175). -/
def ledOperation (i : Inputs) (l : Led) : Option Instr :=
  match l.phase with
  | .idle => if i.cmdValid then some (decodeCmd i.cmd) else none
  | .high => some (if wireBit l.shift then .sym1 else .sym0)
  | .low => some (if wireBit l.shift then .sym1 else .sym0)
  | .latch => some .symLatch

/-- The SAMPLE the inputs carry (R83). -/
def sampleOperation (i : Inputs) : Instr := decodeSample (sampleWord i.reading i.tick i.lastTouchTick)

/-- The RENDER the inputs carry, in every cycle (R43, R84). -/
def renderOperation (i : Inputs) : Instr := decodeRender (renderWord i.on i.brightness i.hue)

/-- LedDriver's part of a cycle. -/
def ledCycle (run : Instr → State → Result) (i : Inputs) (s : State) : Result :=
  match ledOperation i s.led with
  | some op => run op s
  | none => .next s

/-- ClapDetector's part of a cycle (R112). -/
def clapCycle (run : Instr → State → Result) (i : Inputs) (s : State) : Result :=
  if i.sampleValid then run (sampleOperation i) s else noSample s

/-- ColorEngine's part of a cycle (R43). -/
def colourCycle (run : Instr → State → Result) (i : Inputs) (s : State) : Result :=
  run (renderOperation i) s

/-- The reset edge: every state element takes its reset value (R230). What the host still drives and the model's
observation fields are no state elements of the block. -/
def resetEdge (s : State) : State := { s with led := Led.reset s.params, clap := Clap.reset s.params }

/-- One clock cycle: `rst = 1` overrides everything (60_exceptions.md R207) but ColorEngine, which has no state
(R231); else the three sub-blocks act on their disjoint states (R70). -/
def cycle (run : Instr → State → Result) (s : State) : Result :=
  if s.inputs.rst then colourCycle run s.inputs (resetEdge s.advance)
  else
    andThen (ledCycle run s.inputs s.advance) fun t =>
      andThen (clapCycle run s.inputs t) fun u => colourCycle run s.inputs u

/-- Put a port word where the next cycle takes its operation from: at the head of the queue, and for a command with
PHASE = IDLE, the only phase in which the command port is read (R41; log entry 9). -/
def placePortWord (s : State) (w : PortWord) : State :=
  match w with
  | .cmd c => { s with stimulus := .hold c :: s.stimulus, led := { s.led with phase := .idle } }
  | .sample c => { s with stimulus := .cycle (sampleInputs c) :: s.stimulus }
  | .render c => { s with stimulus := .cycle (renderInputs c) :: s.stimulus }
  | .wire _ => s

/-- The same for a word numbered as the opcode table numbers it. -/
def placeTableWord (s : State) (nbits w : Nat) : State :=
  match tablePortWord nbits w with
  | some pw => placePortWord s pw
  | none => s

end Sys2Proof.Machine
end

