-- ==== Sys2Proof/Machine/LedCommands.lean ====
section
/-! DEFINITION. The five host commands of LedDriver (42_led_driver.md section 2). Each meaning is the command's own
effect; presented while PHASE is not IDLE it has none (10_state.md R41). -/

namespace Sys2Proof.Machine

/-- NOP (R176): "no state changes". -/
def execNop (s : State) : Result :=
  onLed s (whenReady fun _ l => .ok l)

/-- LOAD (R161): in range the pixel is stored and DISPLAYED cleared; at or above `N_LEDS` nothing changes. -/
def execLoad (idx : Nat) (r g b : Byte) (s : State) : Result :=
  onLed s (whenReady fun p l =>
    .ok (if idx < p.nLeds then ({ l with pix := storePixel p l.pix idx (pixel r g b) } : Led).clearDisplayed else l))

/-- FILL (R162): every pixel at the same edge, and DISPLAYED cleared. -/
def execFill (r g b : Byte) (s : State) : Result :=
  onLed s (whenReady fun p l =>
    .ok ({ l with pix := Memory.fill l.pix p.nLeds (pixel r g b) } : Led).clearDisplayed)

/-- INVALIDATE (R163). -/
def execInvalidate (s : State) : Result :=
  onLed s (whenReady fun _ l => .ok l.clearDisplayed)

/-- REFRESH (R164): nothing where DISPLAYED = 1, else a transmission starts (R165). -/
def execRefresh (s : State) : Result :=
  onLed s (whenReady fun p l => if l.displayed then .ok l else startTransmission p l)

end Sys2Proof.Machine
end

