-- ==== Sys2Proof/Machine/Sequencer.lean ====
section
/-! DEFINITION. The three wire symbols, one clock cycle at a time (42_led_driver.md section 3; log entry 7). A
symbol's rules fire in the cycles in which it is on the wire; in any other cycle none of them does and nothing
changes. -/

namespace Sys2Proof.Machine

/-- The edge that ends a symbol's last cycle: next bit (R170), next pixel (R171) or end of frame (R172). -/
def afterSymbol (p : Params) (l : Led) : Except Fault Led :=
  if l.bitIdx ≠ 23#5 then .ok (startSymbol p { l with bitIdx := l.bitIdx + 1#5 } (l.shift <<< 1))
  else if l.ledIdx.toNat ≠ p.nLeds - 1 then startPixel p l (l.ledIdx.toNat + 1)
  else .ok (endTransmission p l)

/-- One cycle of the symbol of `bit`: its high part (R167, R168), then its low part (R169 to R172). -/
def symbolCycle (bit : Bool) (p : Params) (l : Led) : Except Fault Led :=
  if wireBit l.shift = bit then
    match l.phase with
    | .high =>
      if l.cnt ≠ 0 then .ok { l with cnt := l.cnt - 1 }
      else .ok { l with phase := .low, cnt := tl p bit - 1 }
    | .low => if l.cnt ≠ 0 then .ok { l with cnt := l.cnt - 1 } else afterSymbol p l
    | .idle => .ok l
    | .latch => .ok l
  else .ok l

/-- One cycle of the latch interval (R173, R174). -/
def latchCycle (l : Led) : Led :=
  match l.phase with
  | .latch => if l.cnt ≠ 0 then { l with cnt := l.cnt - 1 } else { l with phase := .idle }
  | .idle => l
  | .high => l
  | .low => l

/-- SYM0 (R91), one cycle. -/
def execSym0 (s : State) : Result := onLed s (symbolCycle false)

/-- SYM1 (R92), one cycle. -/
def execSym1 (s : State) : Result := onLed s (symbolCycle true)

/-- SYMLATCH (R93), one cycle. -/
def execSymLatch (s : State) : Result := onLed s fun _ l => .ok (latchCycle l)

end Sys2Proof.Machine
end

