-- ==== Sys2Proof/Machine/Dispatch.lean ====
section
/-! DEFINITION. The meaning of each operation, one arm per constructor. -/

namespace Sys2Proof.Machine

def exec (i : Instr) (s : State) : Host.Outcome State Fault Refusal :=
  match i with
  | .nop => Sys2Proof.Machine.execNop s
  | .load idx r g b => Sys2Proof.Machine.execLoad idx r g b s
  | .fill r g b => Sys2Proof.Machine.execFill r g b s
  | .invalidate => Sys2Proof.Machine.execInvalidate s
  | .refresh => Sys2Proof.Machine.execRefresh s
  | .sample reading tick lastTouchTick => Sys2Proof.Machine.execSample reading tick lastTouchTick s
  | .render on brightness hue => Sys2Proof.Machine.execRender on brightness hue s
  | .sym0 => Sys2Proof.Machine.execSym0 s
  | .sym1 => Sys2Proof.Machine.execSym1 s
  | .symLatch => Sys2Proof.Machine.execSymLatch s

end Sys2Proof.Machine
end

