-- ==== Sys2Proof/Machine/Step.lean ====
section
/-! DEFINITION. The step of the machine, one clock cycle (00_scope.md R6), and where an operation is placed to be
run next. -/

namespace Sys2Proof.Machine

/-- `S_{k+1} = step(S_k, I_k)`, with `I_k` at the head of the state's queue. -/
def step (s : State) : Host.Outcome State Fault Refusal := cycle exec s

/-- The state whose next step runs the operation of a table word (log entry 9). -/
def State.withFetchWord (s : State) (nbits w : Nat) : State := placeTableWord s nbits w

end Sys2Proof.Machine
end

