-- ==== Sys2Proof/Machine/Script.lean ====
section
/-! DEFINITION. Stimulus scripts, the block's programs: the lines of 30_encoding.md R100 and the pseudo-operations of
R101, as what the host then drives. -/

namespace Sys2Proof.Machine

/-- A line of a script (R100). -/
inductive Line where
  /-- A command, SAMPLE or RENDER line. -/
  | op (i : Instr)
  /-- `WAIT n`. -/
  | wait (n : Nat)
  deriving DecidableEq, Repr

/-- What the host drives for a port word: a command is held until accepted, a bundle stands for one cycle (R100). The
wire is an output; nothing is driven for it. -/
def portStimulus : PortWord → List Stimulus
  | .cmd w => [.hold w]
  | .sample w => [.cycle (sampleInputs w)]
  | .render w => [.cycle (renderInputs w)]
  | .wire _ => []

/-- What the host drives for a line (R100). -/
def lineStimulus (p : Params) : Line → List Stimulus
  | .op i => portStimulus (encode p i)
  | .wait n => List.replicate n (.cycle idleInputs)

/-- A line of a script with the pseudo-operations of R101. -/
inductive ScriptLine where
  /-- A line of R100. -/
  | line (l : Line)
  /-- `WAITRDY`. -/
  | waitRdy
  /-- `SHOW r, g, b`. -/
  | showColour (r g b : Byte)
  /-- `SHOWCFG on, brightness, hue`. -/
  | showCfg (on : Bool) (brightness hue : Nat)
  /-- `FORCE`. -/
  | force
  deriving DecidableEq, Repr

/-- `SHOW r, g, b` (R101). -/
def expandShow (c : Colour) : List Line := [.op (.fill c.r c.g c.b), .op .refresh]

/-- The expansion of a line (R101). `draws` is the machine's draw counter when the line starts: the triple SHOWCFG
shows is the one its RENDER gives, outside the domain too (R148, log entry 1). -/
def expandLine (draws : Nat) : ScriptLine → List Line
  | .line l => [l]
  | .waitRdy => [.op .nop]
  | .showColour r g b => expandShow ⟨r, g, b⟩
  | .showCfg on brightness hue => .op (.render on brightness hue) :: expandShow (renderOutput on brightness hue draws)
  | .force => [.op .invalidate, .op .refresh]

/-- The draws of the free value an operation makes: only RENDER makes any. -/
def operationDraws : Instr → Nat
  | .nop => 0
  | .load _ _ _ _ => 0
  | .fill _ _ _ => 0
  | .invalidate => 0
  | .refresh => 0
  | .sample _ _ _ => 0
  | .render on brightness hue => renderDraws on brightness hue
  | .sym0 => 0
  | .sym1 => 0
  | .symLatch => 0

/-- The draws of the free value the expansion of a line makes. -/
def scriptLineDraws : ScriptLine → Nat
  | .line (.op i) => operationDraws i
  | .line (.wait _) => 0
  | .waitRdy => 0
  | .showColour _ _ _ => 0
  | .showCfg on brightness hue => renderDraws on brightness hue
  | .force => 0

/-- The expansion of a script whose first line starts at draw counter `draws`. -/
def expandScript (draws : Nat) (script : List ScriptLine) : List Line :=
  match script with
  | [] => []
  | l :: rest => expandLine draws l ++ expandScript (draws + scriptLineDraws l) rest

/-- What the host drives for a script. -/
def scriptStimulus (p : Params) (draws : Nat) (script : List ScriptLine) : List Stimulus :=
  (expandScript draws script).flatMap (lineStimulus p)

/-- The state in which the host is about to run a script. -/
def State.withScript (s : State) (script : List ScriptLine) : State :=
  { s with stimulus := scriptStimulus s.params s.draws script }

end Sys2Proof.Machine
end

