-- ==== Sys2Proof/Machine/Waveform.lean ====
section
/-! DEFINITION. The frame code and its length: what one transmission puts on `dout` (30_encoding.md R94,
42_led_driver.md R181), and its durations in time, exact rationals (30_encoding.md R95). -/

namespace Sys2Proof.Machine

/-- `bit_0 .. bit_{24·N_LEDS-1}` of a frame: pixels in increasing index, each most significant bit first (R89, R90, R94). -/
def frameBits (p : Params) (m : Memory) : List Bool :=
  (List.range p.nLeds).flatMap fun i => pixelBits p.byteOrder (Memory.read m i)

/-- The symbols of a list of bits with nothing between them (R94). -/
def symbols (p : Params) (bits : List Bool) : Wave := bits.flatMap (symWave p)

/-- `frame(PIX)` (R94). -/
def frameWave (p : Params) (m : Memory) : Wave := symbols p (frameBits p m) ++ latchWave p

/-- `D = Z·(T0H + T0L) + O·(T1H + T1L)`, the cycles of the transmission of a frame (R181). -/
def frameCycles (p : Params) (m : Memory) : Nat :=
  (frameBits p m).count false * (p.t0h + p.t0l) + (frameBits p m).count true * (p.t1h + p.t1l)

/-- The bound of R181 on `D`: "LED count × fixed per-bit cycles". -/
def maxFrameCycles (p : Params) : Nat := 24 * p.nLeds * max (p.t0h + p.t0l) (p.t1h + p.t1l)

/-- The sufficient condition of 70_reset_and_hazards.md R243 for no masked tick to be lost (a premise about an
interrupt controller outside the block): the bound on `D` is below the cycles of 1 ms. -/
def maskFitsOneTick (p : Params) : Bool := decide (maxFrameCycles p * 1000 < p.fClkHz)

/-- A number of cycles in seconds, `n / F_CLK_HZ` (R181). -/
def cyclesToSeconds (p : Params) (n : Nat) : ℚ := n / p.fClkHz

/-- The clock period `P = 10^9 / F_CLK_HZ` in nanoseconds (R95). -/
def clockPeriod (p : Params) : ℚ := 10 ^ 9 / p.fClkHz

/-- A number of cycles in nanoseconds, exactly `n·P` (R95). -/
def cyclesToNanoseconds (p : Params) (n : Nat) : ℚ := n * clockPeriod p

/-- The least low time between the last high part of a frame and the next frame, in nanoseconds: the latch interval
plus the low part of the last bit (R95). -/
def latchLowNanoseconds (p : Params) : ℚ := cyclesToNanoseconds p (p.tReset + min p.t0l p.t1l)

/-- A row of the table of R95, in nanoseconds. -/
structure StripTiming where
  t0h : ℚ
  t0l : ℚ
  t1h : ℚ
  t1l : ℚ
  tolerance : ℚ
  latchLow : ℚ
  deriving DecidableEq, Repr

/-- The WS2812 row of R95. -/
def ws2812 : StripTiming := { t0h := 350, t0l := 800, t1h := 700, t1l := 600, tolerance := 150, latchLow := 50000 }

/-- The WS2812B row of R95, with its first latch figure. -/
def ws2812b : StripTiming := { t0h := 400, t0l := 850, t1h := 800, t1l := 450, tolerance := 150, latchLow := 50000 }

/-- The WS2812B row with the latch figure R95 gives for later revisions. -/
def ws2812bLater : StripTiming := { ws2812b with latchLow := 280000 }

/-- A duration within a tolerance of its nominal value. -/
def within (tolerance nominal actual : ℚ) : Bool :=
  decide (nominal - tolerance ≤ actual) && decide (actual ≤ nominal + tolerance)

/-- The parameters produce a row's durations within its tolerance (R95, 70_reset_and_hazards.md R244): a premise of
claims about a strip, which no rule of the step reads. -/
def meetsStripTiming (p : Params) (t : StripTiming) : Bool :=
  within t.tolerance t.t0h (cyclesToNanoseconds p p.t0h) && within t.tolerance t.t0l (cyclesToNanoseconds p p.t0l) &&
  within t.tolerance t.t1h (cyclesToNanoseconds p p.t1h) && within t.tolerance t.t1l (cyclesToNanoseconds p p.t1l) &&
  decide (t.latchLow < latchLowNanoseconds p)

end Sys2Proof.Machine
end

