-- ==== Sys2Proof/Safety.lean ====
section
/-! DEFINITION. The terms claims are stated in: the invariant of reachable states (10_state.md R38, R39), what a run
lets the outside observe (00_scope.md R19), and what the host presents in a cycle. -/

namespace Sys2Proof.Machine

/-! ## Invariant -/

/-- LedDriver's part of the invariant. -/
structure Led.Inv (p : Params) (l : Led) : Prop where
  /-- The buffer is in its canonical form. -/
  memory : Memory.wf l.pix = true
  /-- Only implemented indices are listed (R61). -/
  indices : ∀ c ∈ l.pix, c.1 < p.nLeds
  /-- R38 (a), the pixel on the wire. -/
  ledIdx : l.phase = .high ∨ l.phase = .low → l.ledIdx.toNat < p.nLeds
  /-- R38 (a), the bit on the wire. -/
  bitIdx : l.phase = .high ∨ l.phase = .low → l.bitIdx.toNat ≤ 23
  /-- R38 (a), the shift register. -/
  shift : l.phase = .high ∨ l.phase = .low →
    l.shift = wire p.byteOrder (Memory.read l.pix l.ledIdx.toNat) <<< l.bitIdx.toNat
  /-- R38 (b), HIGH. -/
  cntHigh : l.phase = .high → l.cnt ≤ th p (wireBit l.shift) - 1
  /-- R38 (b), LOW. -/
  cntLow : l.phase = .low → l.cnt ≤ tl p (wireBit l.shift) - 1
  /-- R38 (b), LATCH. -/
  cntLatch : l.phase = .latch → l.cnt ≤ p.tReset - 1
  /-- `DISPLAYED = 0` throughout a transmission (R180 (e)). -/
  notDisplayed : l.phase = .high ∨ l.phase = .low → l.displayed = false

/-- The invariant of R38 and R39, with the parameters' own constraints (R9) and the buffer's canonical form. -/
structure Inv (s : State) : Prop where
  params : s.params.wf = true
  led : Led.Inv s.params s.led
  /-- R39: `EVENT = 1` implies NoClap. -/
  event : s.clap.event = true → s.clap.clapState = .noClap

/-! ## Observation -/

/-- What the outside observes of one cycle (R19). -/
structure Observation where
  dout : Bool
  irqMask : Bool
  cmdReady : Bool
  busy : Bool
  displayed : Bool
  event : Bool
  /-- The triple `(r, g, b)` of the cycle's RENDER evaluation. -/
  rgb : Colour
  deriving DecidableEq, Repr

/-- The observation of the cycle whose state is `s`: the outputs of R45 from the block's state alone, and RENDER of the
cycle's inputs (R43). -/
def observe (s : State) : Observation :=
  { dout := s.dout, irqMask := s.irqMask, cmdReady := s.cmdReady, busy := s.busy, displayed := s.displayed,
    event := s.event, rgb := s.colourOutput }

/-- The states of the next `n` cycles, `s` first; cut short only where a step stops. -/
def states (n : Nat) (s : State) : List State :=
  match n with
  | 0 => []
  | k + 1 =>
    s :: match step s with
      | .next t => states k t
      | .fault _ => []
      | .refused _ => []

/-- The observation of the next `n` cycles, one entry a cycle (R19). -/
def observations (n : Nat) (s : State) : List Observation := (states n s).map observe

/-- The `dout` waveform of the next `n` cycles. -/
def doutWave (n : Nat) (s : State) : Wave := (states n s).map State.dout

/-- One operation performed `n` times over, each time in the state the last left. -/
def execTimes (i : Instr) (n : Nat) (s : State) : Result :=
  match n with
  | 0 => .next s
  | k + 1 => andThen (exec i s) (execTimes i k)

/-- The `dout` levels of the cycles in which an operation is performed `n` times over. -/
def execWave (i : Instr) (n : Nat) (s : State) : Wave :=
  match n with
  | 0 => []
  | k + 1 =>
    s.dout :: match exec i s with
      | .next t => execWave i k t
      | .fault _ => []
      | .refused _ => []

/-! ## What the host presents -/

/-- No entry of the queue asserts `rst`. -/
def noReset (q : List Stimulus) : Prop :=
  ∀ x ∈ q, ∀ i, x = .cycle i → i.rst = false

/-- A command is accepted in this cycle (R41). -/
def acceptsCommand (s : State) : Prop :=
  s.inputs.cmdValid = true ∧ s.cmdReady = true ∧ s.inputs.rst = false

/-- The command accepted in this cycle is `i`. -/
def accepts (s : State) (i : Instr) : Prop := acceptsCommand s ∧ decodeCmd s.inputs.cmd = i

/-- The command accepted in this cycle clears DISPLAYED: LOAD in range, FILL or INVALIDATE (R26, R34). -/
def acceptsClearing (s : State) : Prop :=
  (∃ idx r g b, accepts s (.load idx r g b) ∧ idx < s.params.nLeds) ∨
  (∃ r g b, accepts s (.fill r g b)) ∨ accepts s .invalidate

/-- Is this one of the five commands of format C? -/
def isCommand : Instr → Bool
  | .nop => true
  | .load _ _ _ _ => true
  | .fill _ _ _ => true
  | .invalidate => true
  | .refresh => true
  | .sample _ _ _ => false
  | .render _ _ _ => false
  | .sym0 => false
  | .sym1 => false
  | .symLatch => false

/-- Does the operation belong to LedDriver? -/
def isLedOperation : Instr → Bool
  | .nop => true
  | .load _ _ _ _ => true
  | .fill _ _ _ => true
  | .invalidate => true
  | .refresh => true
  | .sample _ _ _ => false
  | .render _ _ _ => false
  | .sym0 => true
  | .sym1 => true
  | .symLatch => true

end Sys2Proof.Machine
end

