-- ==== Sys2Proof/Certificates/Slice0/Obligations.lean ====
section
/-! DEFINITION. The statements for the provers, each formalising or derived from numbered rules of spec/. -/

open Sys2Proof Sys2Proof.Machine

/-! ## Encodings -/

/-- Words written out in 95_test_vectors.md (section 4.1; programs P2, P4) decode to the operations they stand for. -/
def Obligations.WordsOfTheSpecDecode : Prop :=
  decodeTableWord 48 0x1000012A5FF = some (.load 0 0x12#8 0xA5#8 0xFF#8) ∧
  decodeTableWord 48 0x1FFFFFFFFFF = some (.load 65535 0xFF#8 0xFF#8 0xFF#8) ∧
  decodeTableWord 48 0x20000080400 = some (.fill 0x08#8 0x04#8 0x00#8) ∧
  decodeTableWord 48 0x30000000000 = some .invalidate ∧
  decodeTableWord 48 0x4ABCD123456 = some .refresh ∧
  decodeTableWord 48 0x50000000000 = some .nop ∧
  decodeTableWord 16 0xA064 = some (.render true 32 100) ∧
  decodeTableWord 80 (800 * 2 ^ 64 + 1100 * 2 ^ 32 + 7) = some (.sample 800 1100#32 7#32) ∧
  decode (Params.tiny 1) (.wire [true, false, false]) = .ok .sym0 ∧
  decode (Params.tiny 1) (.wire [true, true, false]) = .ok .sym1 ∧
  decode (Params.tiny 1) (.wire [false, false, false, false]) = .ok .symLatch

/-- Decoding the encoding of a well-formed operation gives it back, with every operand at every value its field
holds, for all ten operations and all legal parameters (R80 to R84, R91 to R93). -/
def Obligations.DecodeOfEncodeGivesBackTheOperation : Prop :=
  ∀ (p : Params) (i : Instr), p.wf = true → i.wf = true → decode p (encode p i) = .ok i

/-- The operation codes, which fields each operation reads, the reserved codes, and the mask and match of a command
word (R81). -/
def Obligations.CommandReadsItsFieldsOnly : Prop :=
  (∀ idx r g b, decodeCmd (cmdWord 0#4 idx r g b) = .nop) ∧
  (∀ idx r g b, decodeCmd (cmdWord 1#4 idx r g b) = .load idx.toNat r g b) ∧
  (∀ idx r g b, decodeCmd (cmdWord 2#4 idx r g b) = .fill r g b) ∧
  (∀ idx r g b, decodeCmd (cmdWord 3#4 idx r g b) = .invalidate) ∧
  (∀ idx r g b, decodeCmd (cmdWord 4#4 idx r g b) = .refresh) ∧
  (∀ op idx r g b, 5 ≤ op.toNat → decodeCmd (cmdWord op idx r g b) = .nop) ∧
  (∀ op idx r g b, cmdWord op idx r g b &&& 0xF0000000000#44 = op.setWidth 44 <<< 40)

/-- A word with a reserved code decodes as NOP, and executing it changes no state (R97). -/
def Obligations.ReservedCodesChangeNoState : Prop :=
  ∀ (w : CmdWord) (s : State), 5 ≤ (cmdOp w).toNat → decodeCmd w = .nop ∧ exec (decodeCmd w) s = .next s

/-- The wire word of a pixel: its channels in `BYTE_ORDER`, and its bits most significant first (R87, R88, R89). -/
def Obligations.WireWordFollowsByteOrder : Prop :=
  ∀ (r g b : Byte),
    wire .grb (pixel r g b) = g ++ r ++ b ∧ wire .rgb (pixel r g b) = r ++ g ++ b ∧
    wire .brg (pixel r g b) = b ++ r ++ g ∧ wire .bgr (pixel r g b) = b ++ g ++ r ∧
    wire .rbg (pixel r g b) = r ++ b ++ g ∧ wire .gbr (pixel r g b) = g ++ b ++ r ∧
    ∀ (o : ByteOrder) (j : Nat), j < 24 →
      (pixelBits o (pixel r g b))[j]? = some ((wire o (pixel r g b)).getLsbD (23 - j))

/-! ## LedDriver commands -/

/-- NOP (R176): its code whatever the other fields, and it executes in every state and changes none of it. -/
def Obligations.NopChangesNoState : Prop :=
  (∀ w : CmdWord, w.extractLsb' 40 4 = 0#4 → decodeCmd w = .nop) ∧ ∀ s : State, exec .nop s = .next s

/-- LOAD (R161): its code and operands; in IDLE, in range it stores the pixel, clears DISPLAYED and changes nothing
else; out of range it changes nothing. -/
def Obligations.LoadStoresOnePixel : Prop :=
  (∀ w : CmdWord, w.extractLsb' 40 4 = 1#4 →
    decodeCmd w = .load (w.extractLsb' 24 16).toNat (w.extractLsb' 16 8) (w.extractLsb' 8 8) (w.extractLsb' 0 8)) ∧
  ∀ (s : State) (idx : Nat) (r g b : Byte), s.led.phase = .idle →
    (idx < s.params.nLeds →
      ∃ m : Memory, exec (.load idx r g b) s = .next { s with led := { s.led with pix := m, displayed := false } } ∧
        Memory.read m idx = r ++ g ++ b ∧ ∀ j, j ≠ idx → Memory.read m j = Memory.read s.led.pix j) ∧
    (s.params.nLeds ≤ idx → exec (.load idx r g b) s = .next s)

/-- FILL (R162): its code and operands; in IDLE every implemented pixel takes the value at once, DISPLAYED is cleared
and nothing else changes. -/
def Obligations.FillStoresEveryPixel : Prop :=
  (∀ w : CmdWord, w.extractLsb' 40 4 = 2#4 →
    decodeCmd w = .fill (w.extractLsb' 16 8) (w.extractLsb' 8 8) (w.extractLsb' 0 8)) ∧
  ∀ (s : State) (r g b : Byte), s.led.phase = .idle →
    ∃ m : Memory, exec (.fill r g b) s = .next { s with led := { s.led with pix := m, displayed := false } } ∧
      (∀ j, j < s.params.nLeds → Memory.read m j = r ++ g ++ b) ∧
      ∀ j, s.params.nLeds ≤ j → Memory.read m j = Memory.read s.led.pix j

/-- INVALIDATE (R163): its code whatever the other fields; in IDLE it clears DISPLAYED and changes nothing else. -/
def Obligations.InvalidateClearsDisplayed : Prop :=
  (∀ w : CmdWord, w.extractLsb' 40 4 = 3#4 → decodeCmd w = .invalidate) ∧
  ∀ s : State, s.led.phase = .idle →
    exec .invalidate s = .next { s with led := { s.led with displayed := false } }

/-- REFRESH (R164, R165): its code whatever the other fields; in IDLE it changes nothing where DISPLAYED = 1, and
where it is 0 the transmission starts with the first symbol of PIX[0]. -/
def Obligations.RefreshStartsTransmission : Prop :=
  (∀ w : CmdWord, w.extractLsb' 40 4 = 4#4 → decodeCmd w = .refresh) ∧
  ∀ s : State, s.led.phase = .idle →
    (s.led.displayed = true → exec .refresh s = .next s) ∧
    (s.led.displayed = false → 1 ≤ s.params.nLeds →
      exec .refresh s = .next { s with led := { s.led with
        shift := wire s.params.byteOrder (Memory.read s.led.pix 0),
        ledIdx := 0#16, bitIdx := 0#5, phase := .high,
        cnt := (if (wire s.params.byteOrder (Memory.read s.led.pix 0)).getLsbD 23 then s.params.t1h
                else s.params.t0h) - 1 } })

/-- Command port: an accepted command takes effect on LedDriver at the edge that ends its cycle; with
`cmd_valid = 0`, or while PHASE is not IDLE, the port has no influence on the next state at all (R41). -/
def Obligations.CommandPortIsReadOnlyOnAcceptance : Prop :=
  (∀ (s t : State), acceptsCommand s → step s = .next t →
    ∃ u, exec (decodeCmd s.inputs.cmd) s = .next u ∧ t.led = u.led) ∧
  (∀ (s : State) (i : Inputs) (rest : List Stimulus) (w : CmdWord), i.cmdValid = false →
    step { s with stimulus := .cycle { i with cmd := w } :: rest } = step { s with stimulus := .cycle i :: rest }) ∧
  (∀ (s : State) (i : Inputs) (rest : List Stimulus) (v : Bool) (w : CmdWord), s.led.phase ≠ .idle →
    step { s with stimulus := .cycle { i with cmdValid := v, cmd := w } :: rest } =
      step { s with stimulus := .cycle i :: rest })

/-- A command executed while PHASE is not IDLE has no effect (60_exceptions.md R200, first row). -/
def Obligations.CommandWhileBusyHasNoEffect : Prop :=
  ∀ (s : State) (i : Instr), isCommand i = true → s.led.phase ≠ .idle → exec i s = .next s

/-- The frame of LedDriver's operations: the other sub-blocks, the parameters and the queue are unchanged, and the
effect does not depend on the other sub-blocks (00_scope.md R4). -/
def Obligations.LedOperationsShareNothing : Prop :=
  ∀ (i : Instr) (s t : State), isLedOperation i = true → exec i s = .next t →
    t.params = s.params ∧ t.clap = s.clap ∧ t.stimulus = s.stimulus ∧ t.rgb = s.rgb ∧ t.draws = s.draws ∧
    ∀ (c : Clap) (q : List Stimulus) (col : Colour) (n : Nat),
      exec i { s with clap := c, stimulus := q, rgb := col, draws := n } =
        .next { t with clap := c, stimulus := q, rgb := col, draws := n }

/-- A LOAD is seen by a REFRESH right after it: the frame that starts is that of the new buffer (R67, R246). -/
def Obligations.LoadIsSeenByTheNextRefresh : Prop :=
  ∀ (s : State) (idx : Nat) (r g b : Byte), s.led.phase = .idle → idx < s.params.nLeds →
    ∃ t, andThen (exec (.load idx r g b) s) (exec .refresh) = .next t ∧ t.led.phase = .high ∧
      Memory.read t.led.pix idx = r ++ g ++ b ∧
      t.led.shift = wire s.params.byteOrder (if idx = 0 then r ++ g ++ b else Memory.read s.led.pix 0)

/-! ## Wire symbols -/

/-- The high part of a symbol, cycle by cycle (R167, R168). -/
def Obligations.SymbolHighPart : Prop :=
  ∀ (s : State) (bit : Bool), s.led.phase = .high → s.led.shift.getLsbD 23 = bit →
    (s.led.cnt ≠ 0 →
      exec (if bit then .sym1 else .sym0) s = .next { s with led := { s.led with cnt := s.led.cnt - 1 } }) ∧
    (s.led.cnt = 0 →
      exec (if bit then .sym1 else .sym0) s = .next { s with led := { s.led with
        phase := .low, cnt := (if bit then s.params.t1l else s.params.t0l) - 1 } })

/-- The low part of a symbol, cycle by cycle: counting (R169), the next bit (R170), the next pixel with no cycle
between (R171), and the end of the frame (R172). -/
def Obligations.SymbolLowPart : Prop :=
  ∀ (s : State) (bit : Bool), s.led.phase = .low → s.led.shift.getLsbD 23 = bit → s.params.nLeds ≤ 65536 →
    (s.led.cnt ≠ 0 →
      exec (if bit then .sym1 else .sym0) s = .next { s with led := { s.led with cnt := s.led.cnt - 1 } }) ∧
    (s.led.cnt = 0 → s.led.bitIdx ≠ 23#5 →
      exec (if bit then .sym1 else .sym0) s = .next { s with led := { s.led with
        shift := s.led.shift <<< 1, bitIdx := s.led.bitIdx + 1#5, phase := .high,
        cnt := (if s.led.shift.getLsbD 22 then s.params.t1h else s.params.t0h) - 1 } }) ∧
    (s.led.cnt = 0 → s.led.bitIdx = 23#5 → s.led.ledIdx.toNat + 1 < s.params.nLeds →
      exec (if bit then .sym1 else .sym0) s = .next { s with led := { s.led with
        ledIdx := s.led.ledIdx + 1#16,
        shift := wire s.params.byteOrder (Memory.read s.led.pix (s.led.ledIdx.toNat + 1)),
        bitIdx := 0#5, phase := .high,
        cnt := (if (wire s.params.byteOrder (Memory.read s.led.pix (s.led.ledIdx.toNat + 1))).getLsbD 23
                then s.params.t1h else s.params.t0h) - 1 } }) ∧
    (s.led.cnt = 0 → s.led.bitIdx = 23#5 → s.led.ledIdx.toNat + 1 = s.params.nLeds →
      exec (if bit then .sym1 else .sym0) s = .next { s with led := { s.led with
        phase := .latch, cnt := s.params.tReset - 1, displayed := true } })

/-- The latch interval, cycle by cycle (R173, R174). -/
def Obligations.LatchCountsDownToIdle : Prop :=
  ∀ s : State, s.led.phase = .latch →
    (s.led.cnt ≠ 0 → exec .symLatch s = .next { s with led := { s.led with cnt := s.led.cnt - 1 } }) ∧
    (s.led.cnt = 0 → exec .symLatch s = .next { s with led := { s.led with phase := .idle } })

/-- MODEL'S CHOICE (log entry 7): a symbol executed in a cycle in which it is not on the wire changes nothing, since
none of its rules fires there. -/
def Obligations.SymbolOffTheWireHasNoEffect : Prop :=
  ∀ s : State,
    (¬((s.led.phase = .high ∨ s.led.phase = .low) ∧ s.led.shift.getLsbD 23 = false) → exec .sym0 s = .next s) ∧
    (¬((s.led.phase = .high ∨ s.led.phase = .low) ∧ s.led.shift.getLsbD 23 = true) → exec .sym1 s = .next s) ∧
    (s.led.phase ≠ .latch → exec .symLatch s = .next s)

/-- SYM0 and SYM1: from the first cycle of a symbol, executing it for `TH + TL` cycles drives exactly `H^TH L^TL` and
leads to the next symbol or, with DISPLAYED set, to the latch interval (R91, R92). -/
def Obligations.SymbolDrivesItsWaveform : Prop :=
  ∀ (s : State) (bit : Bool), Inv s → s.led.phase = .high → s.led.shift.getLsbD 23 = bit →
    s.led.cnt = (if bit then s.params.t1h else s.params.t0h) - 1 →
    (bit = false → execWave .sym0 (s.params.t0h + s.params.t0l) s =
      List.replicate s.params.t0h true ++ List.replicate s.params.t0l false) ∧
    (bit = true → execWave .sym1 (s.params.t1h + s.params.t1l) s =
      List.replicate s.params.t1h true ++ List.replicate s.params.t1l false) ∧
    ∃ t, execTimes (if bit then .sym1 else .sym0)
        (if bit then s.params.t1h + s.params.t1l else s.params.t0h + s.params.t0l) s = .next t ∧
      (t.led.phase = .high ∧ t.led.displayed = s.led.displayed ∨
        t.led.phase = .latch ∧ t.led.displayed = true)

/-- SYMLATCH: from the first cycle of the latch interval, executing it for `TRESET` cycles drives exactly `L^TRESET`
and leads to IDLE with nothing else changed (R93). -/
def Obligations.LatchDrivesItsWaveform : Prop :=
  ∀ s : State, s.led.phase = .latch → 1 ≤ s.params.tReset → s.led.cnt = s.params.tReset - 1 →
    execWave .symLatch s.params.tReset s = List.replicate s.params.tReset false ∧
    execTimes .symLatch s.params.tReset s = .next { s with led := { s.led with phase := .idle, cnt := 0 } }

/-! ## Transmission -/

/-- The waveform law (R180): after a REFRESH accepted with DISPLAYED = 0, and no reset, the following cycles put
exactly the frame of the buffer on `dout`, mask interrupts for exactly its symbols, latch for `TRESET` cycles, are
ready first in the cycle after, set DISPLAYED at the end of the last bit, and leave the buffer unchanged; DISPLAYED
then stays 1 until a clearing command is accepted. -/
def Obligations.RefreshSendsExactlyTheFrame : Prop :=
  (∀ s : State, Inv s → accepts s .refresh → s.led.displayed = false → noReset s.restStimulus →
    ∃ t, step s = .next t ∧
      (states ((symbols s.params (frameBits s.params s.led.pix)).length + s.params.tReset + 1) t).map
          (fun u => (u.dout, u.irqMask, u.cmdReady, u.displayed, u.led.pix)) =
        (symbols s.params (frameBits s.params s.led.pix)).map
            (fun level => (level, true, false, false, s.led.pix)) ++
          List.replicate s.params.tReset (false, false, false, true, s.led.pix) ++
          [(false, false, true, true, s.led.pix)]) ∧
  ∀ s t : State, s.inputs.rst = false → step s = .next t → s.displayed = true → ¬acceptsClearing s →
    t.displayed = true

/-- The duration of a frame: `D` counts its symbols' cycles; it does not depend on the data where the two symbols
have one length; and it is bounded by LED count times the longest symbol (R181). -/
def Obligations.FrameLastsItsSymbols : Prop :=
  ∀ (p : Params) (m : Memory),
    (symbols p (frameBits p m)).length = frameCycles p m ∧
    (p.t0h + p.t0l = p.t1h + p.t1l → frameCycles p m = 24 * p.nLeds * (p.t0h + p.t0l)) ∧
    frameCycles p m ≤ 24 * p.nLeds * max (p.t0h + p.t0l) (p.t1h + p.t1l)

/-- Non-preemption (R175): while PHASE is not IDLE the next LedDriver state is a function of the current LedDriver
state alone, and only `rst = 1` or the end of the frame ends a transmission. -/
def Obligations.TransmissionCannotBePreempted : Prop :=
  (∀ s s' t : State, s'.params = s.params → s'.led = s.led → s.led.phase ≠ .idle →
    s.inputs.rst = false → s'.inputs.rst = false → step s = .next t → ∃ t', step s' = .next t' ∧ t'.led = t.led) ∧
  ∀ s t : State, step s = .next t → s.irqMask = true → t.irqMask = false →
    s.inputs.rst = true ∨
      (s.led.phase = .low ∧ s.led.cnt = 0 ∧ s.led.bitIdx = 23#5 ∧ s.led.ledIdx.toNat = s.params.nLeds - 1)

/-- `irq_mask` rises after exactly the cycles in which a REFRESH is accepted with DISPLAYED = 0 (R183, R208). -/
def Obligations.IrqMaskRisesOnlyOnRefresh : Prop :=
  ∀ s t : State, step s = .next t → s.irqMask = false →
    (t.irqMask = true ↔ accepts s .refresh ∧ s.displayed = false)

/-- PIX is written by an accepted LOAD in range or FILL only; in particular it is frozen while PHASE is not IDLE
(R20, R32, R65). -/
def Obligations.PixWrittenOnlyByLoadAndFill : Prop :=
  ∀ s t : State, s.inputs.rst = false → step s = .next t → t.led.pix ≠ s.led.pix →
    s.led.phase = .idle ∧
    ((∃ idx r g b, accepts s (.load idx r g b) ∧ idx < s.params.nLeds ∧
        ∀ j, j ≠ idx → Memory.read t.led.pix j = Memory.read s.led.pix j) ∨
      ∃ r g b, accepts s (.fill r g b))

/-- DISPLAYED is cleared by every accepted LOAD in range, FILL or INVALIDATE, set at the end of every last bit of a
frame (R172), and changes in no other way but reset (R26, R34). -/
def Obligations.DisplayedChangesOnlyAsListed : Prop :=
  ∀ s t : State, s.inputs.rst = false → step s = .next t →
    (acceptsClearing s → t.displayed = false) ∧
    (s.displayed = true → t.displayed = false → acceptsClearing s) ∧
    (s.displayed = false → t.displayed = true →
      s.led.phase = .low ∧ s.led.cnt = 0 ∧ s.led.bitIdx = 23#5 ∧ s.led.ledIdx.toNat = s.params.nLeds - 1 ∧
      t.led.phase = .latch) ∧
    (s.led.phase = .low → s.led.cnt = 0 → s.led.bitIdx = 23#5 → s.led.ledIdx.toNat = s.params.nLeds - 1 →
      t.displayed = true ∧ t.led.phase = .latch)

/-- At most one frame per change (R184): once a frame is sent, no transmission starts in any number of cycles in
which no clearing command is accepted and no reset occurs, whatever else the host does. -/
def Obligations.NoFrameWithoutAChange : Prop :=
  ∀ (n : Nat) (s : State), s.displayed = true → s.irqMask = false →
    (∀ t ∈ states n s, t.inputs.rst = false ∧ ¬acceptsClearing t) →
    ∀ t ∈ states n s, t.irqMask = false ∧ t.displayed = true

/-- Two windows of `irq_mask` are at least `TRESET + 2` cycles apart (R209, R182). -/
def Obligations.FramesAreSeparated : Prop :=
  ∀ s t : State, s.params.wf = true → noReset s.stimulus → s.irqMask = true → step s = .next t → t.irqMask = false →
    (states (s.params.tReset + 2) t).length = s.params.tReset + 2 ∧
    ∀ u ∈ states (s.params.tReset + 2) t, u.irqMask = false ∧ u.dout = false

/-- The block always becomes ready: without a reset, within the longest frame and the latch interval (R68, R181). -/
def Obligations.ReadyWithinOneFrame : Prop :=
  ∀ s : State, Inv s → noReset s.stimulus →
    ∃ n t, n ≤ 24 * s.params.nLeds * max (s.params.t0h + s.params.t0l) (s.params.t1h + s.params.t1l) + s.params.tReset ∧
      Host.Core.run Sys2Proof.core n s = .next t ∧ t.cmdReady = true

/-! ## ClapDetector -/

/-- The touch guard (R113): SAMPLE forces NoClap, reports no event and changes nothing else. -/
def Obligations.TouchGuardSuppressesSample : Prop :=
  ∀ (s : State) (reading : Nat) (tick touch : Tick), (tick - touch).toNat < s.params.touchGuardMs →
    exec (.sample reading tick touch) s =
      .next { s with clap := { s.clap with clapState := .noClap, event := false } }

/-- The running average (R114, R39): an unguarded SAMPLE writes the exact value of the formula, which never overflows
the 26 bits. -/
def Obligations.AverageIsUpdatedExactly : Prop :=
  ∀ (s : State) (reading : Nat) (tick touch : Tick), s.params.wf = true → reading < 1024 →
    s.params.touchGuardMs ≤ (tick - touch).toNat →
    ∃ t, exec (.sample reading tick touch) s = .next t ∧
      t.clap.acc.toNat = s.clap.acc.toNat - s.clap.acc.toNat / 2 ^ s.params.avgShift +
        reading * 2 ^ (16 - s.params.avgShift) ∧
      t.clap.acc.toNat < 2 ^ 26

/-- SAMPLE in NoClap (R115, R116), with the updated average and the distance of the reading from its integer part. -/
def Obligations.DetectedSampleEntersFirstClap : Prop :=
  ∀ (s : State) (reading : Nat) (tick touch : Tick) (a : BitVec 26), s.params.wf = true → reading < 1024 →
    s.params.touchGuardMs ≤ (tick - touch).toNat → s.clap.clapState = .noClap →
    a.toNat = s.clap.acc.toNat - s.clap.acc.toNat / 2 ^ s.params.avgShift + reading * 2 ^ (16 - s.params.avgShift) →
    ((s.params.clapThreshold ≤ reading - a.toNat / 2 ^ 16 ∨ s.params.clapThreshold ≤ a.toNat / 2 ^ 16 - reading) →
      exec (.sample reading tick touch) s =
        .next { s with clap := { clapState := .firstClap, lastClapTick := tick, acc := a, event := false } }) ∧
    (reading < a.toNat / 2 ^ 16 + s.params.clapThreshold → a.toNat / 2 ^ 16 < reading + s.params.clapThreshold →
      exec (.sample reading tick touch) s = .next { s with clap := { s.clap with acc := a, event := false } })

/-- SAMPLE in FirstClap: too early (R117), in the window (R118), time-out (R119). -/
def Obligations.FirstClapWaitsAdvancesOrTimesOut : Prop :=
  ∀ (s : State) (reading : Nat) (tick touch : Tick) (a : BitVec 26), s.params.wf = true → reading < 1024 →
    s.params.touchGuardMs ≤ (tick - touch).toNat → s.clap.clapState = .firstClap →
    a.toNat = s.clap.acc.toNat - s.clap.acc.toNat / 2 ^ s.params.avgShift + reading * 2 ^ (16 - s.params.avgShift) →
    ((tick - s.clap.lastClapTick).toNat < s.params.interMin →
      exec (.sample reading tick touch) s = .next { s with clap := { s.clap with acc := a, event := false } }) ∧
    (s.params.interMin ≤ (tick - s.clap.lastClapTick).toNat →
      (tick - s.clap.lastClapTick).toNat < s.params.interMax →
      (s.params.clapThreshold ≤ reading - a.toNat / 2 ^ 16 ∨ s.params.clapThreshold ≤ a.toNat / 2 ^ 16 - reading) →
      exec (.sample reading tick touch) s =
        .next { s with clap := { clapState := .doubleClap, lastClapTick := tick, acc := a, event := false } }) ∧
    (s.params.interMin ≤ (tick - s.clap.lastClapTick).toNat →
      (tick - s.clap.lastClapTick).toNat < s.params.interMax →
      reading < a.toNat / 2 ^ 16 + s.params.clapThreshold → a.toNat / 2 ^ 16 < reading + s.params.clapThreshold →
      exec (.sample reading tick touch) s = .next { s with clap := { s.clap with acc := a, event := false } }) ∧
    (s.params.interMax ≤ (tick - s.clap.lastClapTick).toNat →
      exec (.sample reading tick touch) s =
        .next { s with clap := { s.clap with clapState := .noClap, acc := a, event := false } })

/-- SAMPLE in DoubleClap: it confirms strictly after `CLAP_TO_TOUCH_MIN` ticks, whatever the reading, and EVENT takes
the result (R120, R121). -/
def Obligations.DoubleClapConfirms : Prop :=
  ∀ (s : State) (reading : Nat) (tick touch : Tick) (a : BitVec 26), s.params.wf = true → reading < 1024 →
    s.params.touchGuardMs ≤ (tick - touch).toNat → s.clap.clapState = .doubleClap →
    a.toNat = s.clap.acc.toNat - s.clap.acc.toNat / 2 ^ s.params.avgShift + reading * 2 ^ (16 - s.params.avgShift) →
    (s.params.clapToTouchMin < (tick - s.clap.lastClapTick).toNat →
      exec (.sample reading tick touch) s =
        .next { s with clap := { s.clap with clapState := .noClap, acc := a, event := true } }) ∧
    ((tick - s.clap.lastClapTick).toNat ≤ s.params.clapToTouchMin →
      exec (.sample reading tick touch) s = .next { s with clap := { s.clap with acc := a, event := false } })

/-- SAMPLE touches ClapDetector alone and does not depend on the other sub-blocks (R4, R123). -/
def Obligations.SampleSharesNothing : Prop :=
  ∀ (s : State) (reading : Nat) (tick touch : Tick),
    ∃ c : Clap, exec (.sample reading tick touch) s = .next { s with clap := c } ∧
      ∀ (l : Led) (q : List Stimulus) (col : Colour) (n : Nat),
        exec (.sample reading tick touch) { s with led := l, stimulus := q, rgb := col, draws := n } =
          .next { s with led := l, clap := c, stimulus := q, rgb := col, draws := n }

/-- EVENT is 1 in exactly the cycle after a strobe whose SAMPLE confirmed a double clap, which also ends the
DoubleClap, so one double clap gives one pulse (R121); and without a strobe nothing but EVENT changes (R112). -/
def Obligations.EventIsAOneCyclePulse : Prop :=
  ∀ s t : State, step s = .next t →
    (t.event = true ↔
      s.inputs.rst = false ∧ s.inputs.sampleValid = true ∧
      s.params.touchGuardMs ≤ (s.inputs.tick - s.inputs.lastTouchTick).toNat ∧
      s.clap.clapState = .doubleClap ∧
      s.params.clapToTouchMin < (s.inputs.tick - s.clap.lastClapTick).toNat) ∧
    (t.event = true → t.clap.clapState = .noClap) ∧
    (s.inputs.rst = false → s.inputs.sampleValid = false → t.clap = { s.clap with event := false })

/-- A DoubleClap is entered from FirstClap only, by a strobe in the window `[INTER_MIN, INTER_MAX)` (R27, R118). -/
def Obligations.DoubleClapNeedsAFirstClapInTheWindow : Prop :=
  ∀ s t : State, step s = .next t → t.clap.clapState = .doubleClap → s.clap.clapState ≠ .doubleClap →
    s.inputs.rst = false ∧ s.inputs.sampleValid = true ∧ s.clap.clapState = .firstClap ∧
    s.params.touchGuardMs ≤ (s.inputs.tick - s.inputs.lastTouchTick).toNat ∧
    s.params.interMin ≤ (s.inputs.tick - s.clap.lastClapTick).toNat ∧
    (s.inputs.tick - s.clap.lastClapTick).toNat < s.params.interMax ∧
    t.clap.lastClapTick = s.inputs.tick

/-- SAMPLE depends on tick differences only, modulo 2^32: moving every tick by the same amount, across a wrap too,
moves the recorded tick with it and changes nothing else (R122). -/
def Obligations.SampleIsInvariantUnderTickShift : Prop :=
  ∀ (s t : State) (reading : Nat) (tick touch d : Tick), exec (.sample reading tick touch) s = .next t →
    exec (.sample reading (tick + d) (touch + d))
        { s with clap := { s.clap with lastClapTick := s.clap.lastClapTick + d } } =
      .next { t with clap := { t.clap with lastClapTick := t.clap.lastClapTick + d } }

/-! ## ColorEngine -/

/-- RENDER (R140 to R147): black when off; in the domain, lightness, chroma, secondary channel, sector table and
offset as the rules give them, on the outputs alone. -/
def Obligations.RenderComputesTheColour : Prop :=
  ∀ s : State,
    (∀ brightness hue, exec (.render false brightness hue) s = .next { s with rgb := ⟨0#8, 0#8, 0#8⟩ }) ∧
    ∀ (brightness hue v c x m : Nat) (top mid low : Byte), 1 ≤ brightness → brightness ≤ 64 → hue ≤ 191 →
      v = min (max (brightness ^ 2 / 16) 1) 255 →
      c = (if v ≤ 127 then 2 * v else 510 - 2 * v) →
      x = (if hue / 32 % 2 = 0 then c * (hue % 32) / 32 else c * (32 - hue % 32) / 32) →
      m = (if v ≤ 127 then 0 else 2 * v - 255) →
      top = BitVec.ofNat 8 (min (c + m) 255) → mid = BitVec.ofNat 8 (min (x + m) 255) →
      low = BitVec.ofNat 8 (min (0 + m) 255) →
      (hue / 32 = 0 → exec (.render true brightness hue) s = .next { s with rgb := ⟨top, mid, low⟩ }) ∧
      (hue / 32 = 1 → exec (.render true brightness hue) s = .next { s with rgb := ⟨mid, top, low⟩ }) ∧
      (hue / 32 = 2 → exec (.render true brightness hue) s = .next { s with rgb := ⟨low, top, mid⟩ }) ∧
      (hue / 32 = 3 → exec (.render true brightness hue) s = .next { s with rgb := ⟨low, mid, top⟩ }) ∧
      (hue / 32 = 4 → exec (.render true brightness hue) s = .next { s with rgb := ⟨mid, low, top⟩ }) ∧
      (hue / 32 = 5 → exec (.render true brightness hue) s = .next { s with rgb := ⟨top, low, mid⟩ })

/-- The extremes of the rendered triple (R149): the largest channel is `c + m`, which is `2v` up to 127 and 255 from
128, the smallest is `m`, and full brightness is white for every hue. -/
def Obligations.RenderExtremes : Prop :=
  ∀ (s t : State) (brightness hue : Nat), 1 ≤ brightness → brightness ≤ 64 → hue ≤ 191 →
    exec (.render true brightness hue) s = .next t →
    max (max t.rgb.r.toNat t.rgb.g.toNat) t.rgb.b.toNat =
      (if lightness brightness ≤ 127 then 2 * lightness brightness else 255) ∧
    min (min t.rgb.r.toNat t.rgb.g.toNat) t.rgb.b.toNat =
      (if lightness brightness ≤ 127 then 0 else 2 * lightness brightness - 255) ∧
    (brightness = 64 → t.rgb = ⟨255#8, 255#8, 255#8⟩)

/-- RENDER outside its domain with `on = 1` still runs: some triple stands on the outputs and nothing but the model's
draw counter (log entry 1) changes besides (R148). -/
def Obligations.RenderOutsideItsDomainRuns : Prop :=
  ∀ (s : State) (brightness hue : Nat), brightness = 0 ∨ 64 < brightness ∨ 191 < hue →
    ∃ (col : Colour) (n : Nat), exec (.render true brightness hue) s = .next { s with rgb := col, draws := n }

/-- In every cycle, with `rst = 1` too (R231, log entry 13), whatever else happens, the triple the outside observes is
RENDER of that cycle's inputs (R43, R19): executing that RENDER in the cycle's state gives exactly this triple and draw
counter, and the step leaves both. -/
def Obligations.ColourOutputsAreRenderOfTheInputs : Prop :=
  ∀ s : State,
    (∃ n, exec (.render s.inputs.on s.inputs.brightness.toNat s.inputs.hue.toNat) s =
        .next { s with rgb := (observe s).rgb, draws := n } ∧
      ∀ t, step s = .next t → t.rgb = (observe s).rgb ∧ t.draws = n) ∧
    (s.inputs.on = false → (observe s).rgb = ⟨0#8, 0#8, 0#8⟩) ∧
    (s.inputs.rst = true → ∃ t, step s = .next t ∧ t.rgb = (observe s).rgb)

/-- SHOWCFG (R101) is its RENDER, then FILL of the triple that RENDER gives, then REFRESH, for every operand, in the
domain or out of it; a SHOWCFG later in the script starts at the draw counter that RENDER leaves. -/
def Obligations.ShowCfgShowsTheRenderedTriple : Prop :=
  ∀ (s t : State) (on : Bool) (brightness hue : Nat) (rest : List ScriptLine),
    exec (.render on brightness hue) s = .next t →
    expandScript s.draws (.showCfg on brightness hue :: rest) =
      [.op (.render on brightness hue), .op (.fill t.rgb.r t.rgb.g t.rgb.b), .op .refresh] ++
        expandScript t.draws rest

/-! ## The machine -/

/-- A step runs the operations its cycle presents: LedDriver's (the command presented in IDLE, nothing where none is,
the symbol on the wire otherwise), then SAMPLE where it is strobed, else the edge that clears EVENT, then RENDER of the
ColorEngine inputs; the queue has moved on (R6, R43, R70, R112, R166). -/
def Obligations.StepRunsThePresentedOperations : Prop :=
  ∀ (s : State) (u : State), u = { s with stimulus := s.restStimulus } → s.inputs.rst = false →
    ∀ rest : State → Host.Outcome State Fault Refusal,
      (rest = fun v =>
        andThen (if s.inputs.sampleValid then
            exec (.sample s.inputs.reading.toNat s.inputs.tick s.inputs.lastTouchTick) v
          else .next { v with clap := { v.clap with event := false } })
        (exec (.render s.inputs.on s.inputs.brightness.toNat s.inputs.hue.toNat))) →
      (s.led.phase = .idle → s.inputs.cmdValid = true → step s = andThen (exec (decodeCmd s.inputs.cmd) u) rest) ∧
      (s.led.phase = .idle → s.inputs.cmdValid = false → step s = rest u) ∧
      (s.led.phase = .high ∨ s.led.phase = .low →
        step s = andThen (exec (if s.led.shift.getLsbD 23 then .sym1 else .sym0) u) rest) ∧
      (s.led.phase = .latch → step s = andThen (exec .symLatch u) rest)

/-- A held command line stays presented until the cycle in which it is accepted and is then gone (R100). -/
def Obligations.HeldCommandWaitsForAcceptance : Prop :=
  ∀ (s t : State) (w : CmdWord) (rest : List Stimulus), s.stimulus = .hold w :: rest → step s = .next t →
    (s.led.phase ≠ .idle → t.stimulus = .hold w :: rest ∧ ¬acceptsCommand s) ∧
    (s.led.phase = .idle → t.stimulus = rest ∧ accepts s (decodeCmd w))

/-- The reset edge (R230, R47): from every state, whatever the inputs, every state element takes its reset value. -/
def Obligations.ResetEdgeResetsEveryElement : Prop :=
  ∀ s : State, s.inputs.rst = true →
    ∃ t, step s = .next t ∧ t.params = s.params ∧
      (∀ i, Memory.read t.led.pix i = 0#24) ∧ t.led.shift = 0#24 ∧ t.led.phase = .latch ∧
      t.led.cnt = s.params.tReset - 1 ∧ t.led.ledIdx = 0#16 ∧ t.led.bitIdx = 0#5 ∧ t.led.displayed = false ∧
      t.clap.clapState = .noClap ∧ t.clap.lastClapTick = 0#32 ∧
      t.clap.acc = BitVec.ofNat 26 (s.params.avgReset * 2 ^ 16) ∧ t.clap.event = false

/-- The status outputs in the reset state, for every parameter set (R35, R232). -/
def Obligations.ResetStateOutputs : Prop :=
  ∀ p : Params,
    (observe (State.resetWith p)).dout = false ∧ (observe (State.resetWith p)).irqMask = false ∧
    (observe (State.resetWith p)).cmdReady = false ∧ (observe (State.resetWith p)).busy = true ∧
    (observe (State.resetWith p)).displayed = false ∧ (observe (State.resetWith p)).event = false

/-- After reset the block is not ready for exactly `TRESET` cycles, with `dout` low throughout (R47, R174). -/
def Obligations.ReadyTresetCyclesAfterReset : Prop :=
  ∀ s : State, s.params.wf = true → s.led = Led.reset s.params → noReset s.stimulus →
    (states (s.params.tReset + 1) s).map (fun t => (t.dout, t.cmdReady)) =
      List.replicate s.params.tReset (false, false) ++ [(false, true)]

/-- The reset state meets the invariant of R38 and R39, for every legal parameter set. -/
def Obligations.ResetStateMeetsTheInvariant : Prop :=
  (∀ p : Params, p.wf = true → Inv (State.resetWith p)) ∧ Inv State.reset

/-- Every step keeps the invariant of R38 and R39, from every state that has it. -/
def Obligations.StepKeepsTheInvariant : Prop :=
  ∀ s t : State, Inv s → step s = .next t → Inv t

/-- The block has no fault state (R200, R202): from every state with the invariant a step answers a next state. -/
def Obligations.StepNeverStops : Prop :=
  ∀ s : State, Inv s → ∃ t, step s = .next t

/-- No step changes a parameter (R37), and none refuses an operation (R200, R202). That none does for an out-of-domain
RENDER and a reserved code too, where R202 lets a model refuse, is the model's choice (log entries 1 and 12). -/
def Obligations.ParametersAreFixedAndNothingIsRefused : Prop :=
  ∀ s : State, (∀ t, step s = .next t → t.params = s.params) ∧ ∀ r, step s ≠ .refused r

/-- The output functions and their consequences (R45). -/
def Obligations.OutputsAreConsistent : Prop :=
  ∀ s : State,
    (s.dout = true ↔ s.led.phase = .high) ∧ (s.irqMask = true ↔ s.led.phase = .high ∨ s.led.phase = .low) ∧
    (s.cmdReady = true ↔ s.led.phase = .idle) ∧ (s.busy = true ↔ s.led.phase ≠ .idle) ∧
    s.displayed = s.led.displayed ∧ s.event = s.clap.event ∧
    (s.dout = true → s.irqMask = true) ∧ (s.irqMask = true → s.busy = true) ∧ s.cmdReady = !s.busy

/-- A command and a SAMPLE in the same cycle, and the RENDER of every cycle, each have exactly the effect they would
have alone (R70): each sub-block's next state depends on its own state and its own inputs only, and where the spec
states the colour outputs they depend on the colour inputs only. -/
def Obligations.SubBlocksActIndependently : Prop :=
  ∀ s s' t t' : State, s'.params = s.params → s.inputs.rst = false → s'.inputs.rst = false →
    step s = .next t → step s' = .next t' →
    (s'.led = s.led → s'.inputs.cmdValid = s.inputs.cmdValid → s'.inputs.cmd = s.inputs.cmd → t'.led = t.led) ∧
    (s'.clap = s.clap → s'.inputs.sampleValid = s.inputs.sampleValid → s'.inputs.reading = s.inputs.reading →
      s'.inputs.tick = s.inputs.tick → s'.inputs.lastTouchTick = s.inputs.lastTouchTick → t'.clap = t.clap) ∧
    (s'.inputs.on = s.inputs.on → s'.inputs.brightness = s.inputs.brightness → s'.inputs.hue = s.inputs.hue →
      s.inputs.on = false ∨
        (1 ≤ s.inputs.brightness.toNat ∧ s.inputs.brightness.toNat ≤ 64 ∧ s.inputs.hue.toNat ≤ 191) →
      t'.rgb = t.rgb)
end

