-- ==== Sys2Proof/Laws/State.lean ====
section
/-! SUPPORT. What each named update of the state leaves in each field, true by definition. -/

namespace Sys2Proof.Machine

@[simp] theorem Led.clearDisplayed_pix (l : Led) : l.clearDisplayed.pix = l.pix := rfl
@[simp] theorem Led.clearDisplayed_shift (l : Led) : l.clearDisplayed.shift = l.shift := rfl
@[simp] theorem Led.clearDisplayed_phase (l : Led) : l.clearDisplayed.phase = l.phase := rfl
@[simp] theorem Led.clearDisplayed_ledIdx (l : Led) : l.clearDisplayed.ledIdx = l.ledIdx := rfl
@[simp] theorem Led.clearDisplayed_bitIdx (l : Led) : l.clearDisplayed.bitIdx = l.bitIdx := rfl
@[simp] theorem Led.clearDisplayed_cnt (l : Led) : l.clearDisplayed.cnt = l.cnt := rfl
@[simp] theorem Led.clearDisplayed_displayed (l : Led) : l.clearDisplayed.displayed = false := rfl

@[simp] theorem Led.setDisplayed_pix (l : Led) : l.setDisplayed.pix = l.pix := rfl
@[simp] theorem Led.setDisplayed_shift (l : Led) : l.setDisplayed.shift = l.shift := rfl
@[simp] theorem Led.setDisplayed_phase (l : Led) : l.setDisplayed.phase = l.phase := rfl
@[simp] theorem Led.setDisplayed_ledIdx (l : Led) : l.setDisplayed.ledIdx = l.ledIdx := rfl
@[simp] theorem Led.setDisplayed_bitIdx (l : Led) : l.setDisplayed.bitIdx = l.bitIdx := rfl
@[simp] theorem Led.setDisplayed_cnt (l : Led) : l.setDisplayed.cnt = l.cnt := rfl
@[simp] theorem Led.setDisplayed_displayed (l : Led) : l.setDisplayed.displayed = true := rfl

@[simp] theorem Clap.setEvent_clapState (c : Clap) (e : Bool) : (c.setEvent e).clapState = c.clapState := rfl
@[simp] theorem Clap.setEvent_lastClapTick (c : Clap) (e : Bool) : (c.setEvent e).lastClapTick = c.lastClapTick := rfl
@[simp] theorem Clap.setEvent_acc (c : Clap) (e : Bool) : (c.setEvent e).acc = c.acc := rfl
@[simp] theorem Clap.setEvent_event (c : Clap) (e : Bool) : (c.setEvent e).event = e := rfl

@[simp] theorem startSymbol_pix (p : Params) (l : Led) (w : BitVec 24) : (startSymbol p l w).pix = l.pix := rfl
@[simp] theorem startSymbol_shift (p : Params) (l : Led) (w : BitVec 24) : (startSymbol p l w).shift = w := rfl
@[simp] theorem startSymbol_phase (p : Params) (l : Led) (w : BitVec 24) : (startSymbol p l w).phase = .high := rfl
@[simp] theorem startSymbol_ledIdx (p : Params) (l : Led) (w : BitVec 24) : (startSymbol p l w).ledIdx = l.ledIdx := rfl
@[simp] theorem startSymbol_bitIdx (p : Params) (l : Led) (w : BitVec 24) : (startSymbol p l w).bitIdx = l.bitIdx := rfl
@[simp] theorem startSymbol_cnt (p : Params) (l : Led) (w : BitVec 24) :
    (startSymbol p l w).cnt = th p (wireBit w) - 1 := rfl
@[simp] theorem startSymbol_displayed (p : Params) (l : Led) (w : BitVec 24) :
    (startSymbol p l w).displayed = l.displayed := rfl

@[simp] theorem endTransmission_pix (p : Params) (l : Led) : (endTransmission p l).pix = l.pix := rfl
@[simp] theorem endTransmission_shift (p : Params) (l : Led) : (endTransmission p l).shift = l.shift := rfl
@[simp] theorem endTransmission_phase (p : Params) (l : Led) : (endTransmission p l).phase = .latch := rfl
@[simp] theorem endTransmission_ledIdx (p : Params) (l : Led) : (endTransmission p l).ledIdx = l.ledIdx := rfl
@[simp] theorem endTransmission_bitIdx (p : Params) (l : Led) : (endTransmission p l).bitIdx = l.bitIdx := rfl
@[simp] theorem endTransmission_cnt (p : Params) (l : Led) : (endTransmission p l).cnt = p.tReset - 1 := rfl
@[simp] theorem endTransmission_displayed (p : Params) (l : Led) : (endTransmission p l).displayed = true := rfl

@[simp] theorem State.advance_params (s : State) : s.advance.params = s.params := rfl
@[simp] theorem State.advance_led (s : State) : s.advance.led = s.led := rfl
@[simp] theorem State.advance_clap (s : State) : s.advance.clap = s.clap := rfl
@[simp] theorem State.advance_stimulus (s : State) : s.advance.stimulus = s.restStimulus := rfl
@[simp] theorem State.advance_rgb (s : State) : s.advance.rgb = s.rgb := rfl
@[simp] theorem State.advance_draws (s : State) : s.advance.draws = s.draws := rfl

@[simp] theorem resetEdge_params (s : State) : (resetEdge s).params = s.params := rfl
@[simp] theorem resetEdge_led (s : State) : (resetEdge s).led = Led.reset s.params := rfl
@[simp] theorem resetEdge_clap (s : State) : (resetEdge s).clap = Clap.reset s.params := rfl
@[simp] theorem resetEdge_stimulus (s : State) : (resetEdge s).stimulus = s.stimulus := rfl
@[simp] theorem resetEdge_rgb (s : State) : (resetEdge s).rgb = s.rgb := rfl
@[simp] theorem resetEdge_draws (s : State) : (resetEdge s).draws = s.draws := rfl

@[simp] theorem State.resetWith_params (p : Params) : (State.resetWith p).params = p := rfl
@[simp] theorem State.resetWith_led (p : Params) : (State.resetWith p).led = Led.reset p := rfl
@[simp] theorem State.resetWith_clap (p : Params) : (State.resetWith p).clap = Clap.reset p := rfl
@[simp] theorem State.resetWith_stimulus (p : Params) : (State.resetWith p).stimulus = [] := rfl

end Sys2Proof.Machine
end

