-- ==== Sys2Proof/Laws/Clap.lean ====
section
/-! SUPPORT. The parts of SAMPLE, one lemma each: the guard, the average, detection, and the transition of each state. -/

namespace Sys2Proof.Machine

theorem clapSample_guarded {p : Params} {c : Clap} {reading : Nat} {tick touch : Tick}
    (h : (tick - touch).toNat < p.touchGuardMs) :
    clapSample reading tick touch p c = ({ c with clapState := .noClap } : Clap).setEvent false := by
  unfold clapSample
  rw [if_pos]
  exact decide_eq_true h

theorem clapSample_unguarded {p : Params} {c : Clap} {reading : Nat} {tick touch : Tick}
    (h : p.touchGuardMs ≤ (tick - touch).toNat) :
    clapSample reading tick touch p c =
      clapTransition p (detected p reading (BitVec.ofNat 26 (nextAverage p c.acc reading))) tick
        { c with acc := BitVec.ofNat 26 (nextAverage p c.acc reading) } := by
  unfold clapSample
  rw [if_neg]
  unfold guarded
  rw [decide_eq_true_eq]
  exact Nat.not_lt.mpr h

theorem nextAverage_eq (p : Params) (acc : BitVec 26) (reading : Nat) :
    nextAverage p acc reading =
      acc.toNat - acc.toNat / 2 ^ p.avgShift + reading * 2 ^ (16 - p.avgShift) := by
  simp [nextAverage, Nat.shiftRight_eq_div_pow, Nat.shiftLeft_eq]

theorem averagePart_eq (acc : BitVec 26) : averagePart acc = acc.toNat / 2 ^ 16 := by
  simp only [averagePart, BitVec.extractLsb'_toNat, Nat.shiftRight_eq_div_pow]
  exact Nat.mod_eq_of_lt (by have := acc.isLt; omega)

theorem detected_iff (p : Params) (reading : Nat) (acc : BitVec 26) :
    detected p reading acc = true ↔
      p.clapThreshold ≤ reading - acc.toNat / 2 ^ 16 ∨ p.clapThreshold ≤ acc.toNat / 2 ^ 16 - reading := by
  simp only [detected, absdiff, averagePart_eq, decide_eq_true_eq]
  split <;> omega

/-- A transition never writes the average. -/
theorem clapTransition_acc (p : Params) (found : Bool) (tick : Tick) (c : Clap) :
    (clapTransition p found tick c).acc = c.acc := by
  unfold clapTransition
  cases c.clapState
  · simp only; split <;> rfl
  · simp only; split
    · rfl
    · split
      · split <;> rfl
      · rfl
  · simp only; split <;> rfl

/-- A transition that reports an event ends in NoClap. -/
theorem clapTransition_event (p : Params) (found : Bool) (tick : Tick) (c : Clap)
    (h : (clapTransition p found tick c).event = true) : (clapTransition p found tick c).clapState = .noClap := by
  unfold clapTransition at h ⊢
  cases hc : c.clapState <;> simp only [hc] at h ⊢
  · split at h <;> simp at h
  · split at h
    · simp at h
    · split at h
      · split at h <;> simp at h
      · simp at h
  · split at h
    · rename_i ht
      rw [if_pos ht]
      rfl
    · simp at h

end Sys2Proof.Machine
end

