-- ==== Sys2Proof/Laws/Colour.lean ====
section
/-! SUPPORT. The quantities of RENDER as plain arithmetic, and their bounds (41_color_engine.md R146, R150). -/

namespace Sys2Proof.Machine

@[simp] theorem renderOutput_off (brightness hue draws : Nat) :
    renderOutput false brightness hue draws = ⟨0#8, 0#8, 0#8⟩ := rfl

@[simp] theorem renderDraws_off (brightness hue : Nat) : renderDraws false brightness hue = 0 := rfl

theorem inDomain_iff (brightness hue : Nat) :
    inDomain brightness hue = true ↔ 1 ≤ brightness ∧ brightness ≤ 64 ∧ hue ≤ 191 := by
  simp [inDomain, and_assoc]

theorem renderOutput_inDomain (brightness hue draws : Nat) (h : inDomain brightness hue = true) :
    renderOutput true brightness hue draws = renderInDomain brightness hue := by
  simp [renderOutput, h]

theorem renderDraws_inDomain (brightness hue : Nat) (h : inDomain brightness hue = true) :
    renderDraws true brightness hue = 0 := by
  simp [renderDraws, h]

theorem lightness_eq (brightness : Nat) : lightness brightness = min (max (brightness ^ 2 / 16) 1) 255 := by
  simp [lightness, clamp, Nat.shiftRight_eq_div_pow, pow_two]

theorem lightness_range (brightness : Nat) : 1 ≤ lightness brightness ∧ lightness brightness ≤ 255 := by
  rw [lightness_eq]
  omega

theorem chroma_eq (v : Nat) (h : v ≤ 255) : chroma v = if v ≤ 127 then 2 * v else 510 - 2 * v := by
  simp only [chroma, absdiff]
  split <;> split <;> omega

theorem offset_eq (v : Nat) (h : v ≤ 255) : v - (chroma v >>> 1) = if v ≤ 127 then 0 else 2 * v - 255 := by
  rw [chroma_eq v h, Nat.shiftRight_eq_div_pow]
  split <;> omega

theorem secondary_eq (c hue : Nat) :
    secondary c hue = if hue / 32 % 2 = 0 then c * (hue % 32) / 32 else c * (32 - hue % 32) / 32 := by
  simp [secondary, Nat.shiftRight_eq_div_pow]

theorem secondary_le (c hue : Nat) : secondary c hue ≤ c := by
  rw [secondary_eq]
  split
  all_goals
    apply Nat.div_le_of_le_mul
    rw [Nat.mul_comm 32]
    exact Nat.mul_le_mul_left _ (by omega)

/-- The clamp of R147 never acts in the domain. -/
theorem chroma_add_offset_le (v : Nat) (h : v ≤ 255) : chroma v + (v - (chroma v >>> 1)) ≤ 255 := by
  rw [offset_eq v h, chroma_eq v h]
  split <;> omega

end Sys2Proof.Machine
end

