-- ==== Sys2Proof/Laws/Encoding.lean ====
section
/-! SUPPORT. A field cut out of a word is the field the word was put together from. -/

namespace Sys2Proof

/-- A slice above the boundary of a concatenation lies in the upper part. -/
theorem extract_append_high {n m : Nat} (a : BitVec n) (b : BitVec m) (k len : Nat) :
    (a ++ b).extractLsb' (m + k) len = a.extractLsb' k len := by
  ext j hj
  simp [BitVec.getLsbD_append, show ¬(m + k + j < m) by omega, show m + k + j - m = k + j by omega]

/-- A slice below the boundary of a concatenation lies in the lower part. -/
theorem extract_append_low {n m : Nat} (a : BitVec n) (b : BitVec m) (k len : Nat) (h : k + len ≤ m) :
    (a ++ b).extractLsb' k len = b.extractLsb' k len := by
  ext j hj
  simp [BitVec.getLsbD_append, show k + j < m by omega]

theorem extract_whole {n : Nat} (a : BitVec n) : a.extractLsb' 0 n = a := by
  simp

theorem sampleWord_reading (reading : BitVec 10) (tick touch : Tick) :
    (sampleWord reading tick touch).extractLsb' 64 10 = reading :=
  ((extract_append_high (reading ++ tick) touch 32 10).trans (extract_append_high reading tick 0 10)).trans
    (extract_whole reading)

theorem sampleWord_tick (reading : BitVec 10) (tick touch : Tick) :
    (sampleWord reading tick touch).extractLsb' 32 32 = tick :=
  ((extract_append_high (reading ++ tick) touch 0 32).trans
    (extract_append_low reading tick 0 32 (by omega))).trans (extract_whole tick)

theorem sampleWord_touch (reading : BitVec 10) (tick touch : Tick) :
    (sampleWord reading tick touch).extractLsb' 0 32 = touch :=
  (extract_append_low (reading ++ tick) touch 0 32 (by omega)).trans (extract_whole touch)

theorem renderWord_on (on : Bool) (brightness : BitVec 7) (hue : BitVec 8) :
    (renderWord on brightness hue).getLsbD 15 = on := by
  rw [renderWord]
  simp only [BitVec.getLsbD_append]
  simp

theorem renderWord_brightness (on : Bool) (brightness : BitVec 7) (hue : BitVec 8) :
    (renderWord on brightness hue).extractLsb' 8 7 = brightness :=
  ((extract_append_high (BitVec.ofBool on ++ brightness) hue 0 7).trans
    (extract_append_low (BitVec.ofBool on) brightness 0 7 (by omega))).trans (extract_whole brightness)

theorem renderWord_hue (on : Bool) (brightness : BitVec 7) (hue : BitVec 8) :
    (renderWord on brightness hue).extractLsb' 0 8 = hue :=
  (extract_append_low (BitVec.ofBool on ++ brightness) hue 0 8 (by omega)).trans (extract_whole hue)

/-! ## Format C -/

theorem cmdOp_word (op : BitVec 4) (idx : BitVec 16) (r g b : Byte) : cmdOp (cmdWord op idx r g b) = op :=
  ((extract_append_high (op ++ idx ++ r ++ g) b 32 4).trans <|
    (extract_append_high (op ++ idx ++ r) g 24 4).trans <|
    (extract_append_high (op ++ idx) r 16 4).trans (extract_append_high op idx 0 4)).trans (extract_whole op)

theorem cmdIdx_word (op : BitVec 4) (idx : BitVec 16) (r g b : Byte) : cmdIdx (cmdWord op idx r g b) = idx :=
  ((extract_append_high (op ++ idx ++ r ++ g) b 16 16).trans <|
    (extract_append_high (op ++ idx ++ r) g 8 16).trans <|
    (extract_append_high (op ++ idx) r 0 16).trans (extract_append_low op idx 0 16 (by omega))).trans
      (extract_whole idx)

theorem cmdR_word (op : BitVec 4) (idx : BitVec 16) (r g b : Byte) : cmdR (cmdWord op idx r g b) = r :=
  ((extract_append_high (op ++ idx ++ r ++ g) b 8 8).trans <|
    (extract_append_high (op ++ idx ++ r) g 0 8).trans
      (extract_append_low (op ++ idx) r 0 8 (by omega))).trans (extract_whole r)

theorem cmdG_word (op : BitVec 4) (idx : BitVec 16) (r g b : Byte) : cmdG (cmdWord op idx r g b) = g :=
  ((extract_append_high (op ++ idx ++ r ++ g) b 0 8).trans
    (extract_append_low (op ++ idx ++ r) g 0 8 (by omega))).trans (extract_whole g)

theorem cmdB_word (op : BitVec 4) (idx : BitVec 16) (r g b : Byte) : cmdB (cmdWord op idx r g b) = b :=
  (extract_append_low (op ++ idx ++ r ++ g) b 0 8 (by omega)).trans (extract_whole b)

/-- Decoding a command word put together from its fields. -/
theorem decodeCmd_word (op : BitVec 4) (idx : BitVec 16) (r g b : Byte) :
    decodeCmd (cmdWord op idx r g b) =
      match op.toNat with
      | 0 => .nop
      | 1 => .load idx.toNat r g b
      | 2 => .fill r g b
      | 3 => .invalidate
      | 4 => .refresh
      | _ => .nop := by
  rw [decodeCmd, cmdOp_word, cmdIdx_word, cmdR_word, cmdG_word, cmdB_word] <;> rfl

/-- What the constraints of R9 say, as plain inequalities. -/
theorem Params.wf_facts {p : Params} (h : p.wf = true) :
    1 ≤ p.nLeds ∧ p.nLeds ≤ 65536 ∧ 1 ≤ p.t0h ∧ 1 ≤ p.t0l ∧ 1 ≤ p.t1h ∧ 1 ≤ p.t1l ∧ p.t1h ≠ p.t0h ∧ 1 ≤ p.tReset ∧
      p.interMin ≤ p.interMax ∧ 1 ≤ p.avgShift ∧ p.avgShift ≤ 16 ∧ p.avgReset ≤ 1023 := by
  simp [Params.wf] at h
  omega

theorem th_pos {p : Params} (h : p.wf = true) (bit : Bool) : 1 ≤ th p bit := by
  have := Params.wf_facts h
  cases bit <;> simp [th] <;> omega

theorem tl_pos {p : Params} (h : p.wf = true) (bit : Bool) : 1 ≤ tl p bit := by
  have := Params.wf_facts h
  cases bit <;> simp [tl] <;> omega

end Sys2Proof
end

