-- ==== Sys2Proof/Laws/Memory.lean ====
section
/-! SUPPORT. The frame buffer: a read after a write, and that every operation keeps the canonical form. -/

namespace Sys2Proof.Machine

theorem Memory.wf_iff (m : Memory) :
    Memory.wf m = true ↔ m.Pairwise (fun a b => a.1 < b.1) ∧ ∀ c ∈ m, c.2 ≠ 0#24 := by
  simp [Memory.wf, List.all_eq_true]

@[simp] theorem Memory.wf_nil : Memory.wf [] = true := by decide

@[simp] theorem Memory.read_nil (i : Nat) : Memory.read [] i = 0#24 := rfl

theorem Memory.read_erase (m : Memory) (i j : Nat) :
    Memory.read (Memory.erase m i) j = if j = i then 0#24 else Memory.read m j := by
  induction m with
  | nil => simp [Memory.erase]
  | cons c rest ih =>
    obtain ⟨k, w⟩ := c
    rw [Memory.erase] at ih ⊢
    by_cases hk : k = i
    · subst hk
      simp only [List.filter_cons, ne_eq, not_true_eq_false, decide_false, Bool.false_eq_true, if_false, ih]
      by_cases hj : j = k <;> simp [Memory.read, hj]
    · simp only [List.filter_cons, ne_eq, hk, not_false_eq_true, decide_true, if_true]
      by_cases hj : j = k
      · subst hj
        simp [Memory.read, hk]
      · simp only [Memory.read, if_neg hj, ih]

theorem Memory.read_insert (m : Memory) (i : Nat) (v : Pixel) (j : Nat) (h : ∀ c ∈ m, c.1 ≠ i) :
    Memory.read (Memory.insert m i v) j = if j = i then v else Memory.read m j := by
  induction m with
  | nil => simp [Memory.insert, Memory.read]
  | cons c rest ih =>
    obtain ⟨k, w⟩ := c
    have hk : k ≠ i := h (k, w) (by simp)
    have hrest := ih fun c hc => h c (by simp [hc])
    rw [Memory.insert]
    split
    · simp [Memory.read]
    · by_cases hj : j = k
      · subst hj
        simp [Memory.read, hk]
      · simp only [Memory.read, if_neg hj, hrest]

theorem Memory.erase_ne (m : Memory) (i : Nat) : ∀ c ∈ Memory.erase m i, c.1 ≠ i := by
  intro c hc
  simpa [Memory.erase] using (List.mem_filter.mp hc).2

/-- Reading after a store: the stored pixel at its index, every other index as before. -/
theorem Memory.read_write (m : Memory) (i : Nat) (v : Pixel) (j : Nat) :
    Memory.read (Memory.write m i v) j = if j = i then v else Memory.read m j := by
  rw [Memory.write]
  split
  · rename_i hv
    rw [Memory.read_erase, hv]
  · rw [Memory.read_insert _ _ _ _ (Memory.erase_ne m i), Memory.read_erase]
    by_cases hj : j = i <;> simp [hj]

theorem Memory.read_append (a b : Memory) (j : Nat) (h : ∀ c ∈ a, c.1 ≠ j) :
    Memory.read (a ++ b) j = Memory.read b j := by
  induction a with
  | nil => rfl
  | cons c rest ih =>
    obtain ⟨k, w⟩ := c
    have hk : j ≠ k := (h (k, w) (by simp)).symm
    simpa [Memory.read, hk] using ih fun c hc => h c (by simp [hc])

theorem Memory.read_map_append (l : List Nat) (v : Pixel) (b : Memory) (j : Nat) (h : j ∈ l) :
    Memory.read (l.map (fun i => (i, v)) ++ b) j = v := by
  induction l with
  | nil => simp at h
  | cons k rest ih =>
    simp only [List.map_cons, List.cons_append, Memory.read]
    by_cases hj : j = k
    · simp [hj]
    · simpa [hj] using ih (by simpa [hj] using h)

theorem Memory.read_of_absent (m : Memory) (j : Nat) (h : ∀ c ∈ m, c.1 ≠ j) : Memory.read m j = 0#24 := by
  simpa using Memory.read_append m [] j h

theorem Memory.read_filter_ge (m : Memory) (n j : Nat) (h : n ≤ j) :
    Memory.read (m.filter fun c => decide (n ≤ c.1)) j = Memory.read m j := by
  induction m with
  | nil => rfl
  | cons c rest ih =>
    obtain ⟨k, w⟩ := c
    by_cases hk : n ≤ k
    · simp [hk, Memory.read, ih]
    · have hj : j ≠ k := by omega
      simp [hk, Memory.read, ih, hj]

/-- Reading after a fill: the stored pixel below `n`, every other index as before. -/
theorem Memory.read_fill (m : Memory) (n : Nat) (v : Pixel) (j : Nat) :
    Memory.read (Memory.fill m n v) j = if j < n then v else Memory.read m j := by
  rw [Memory.fill]
  by_cases hj : j < n
  · simp only [hj, if_true]
    split
    · rename_i hv
      rw [hv, List.nil_append]
      refine Memory.read_of_absent _ _ fun c hc => ?_
      have := (List.mem_filter.mp hc).2
      simp only [decide_eq_true_eq] at this
      omega
    · exact Memory.read_map_append _ _ _ _ (List.mem_range.mpr hj)
  · simp only [hj, if_false]
    rw [Memory.read_append, Memory.read_filter_ge _ _ _ (by omega)]
    intro c hc
    split at hc
    · simp at hc
    · simp only [List.mem_map, List.mem_range] at hc
      obtain ⟨i, hi, rfl⟩ := hc
      exact fun h => hj (h ▸ hi)

theorem Memory.wf_filter (m : Memory) (q : Nat × Pixel → Bool) (h : Memory.wf m = true) :
    Memory.wf (m.filter q) = true := by
  rw [Memory.wf_iff] at h ⊢
  exact ⟨h.1.filter q, fun c hc => h.2 c (List.mem_filter.mp hc).1⟩

theorem Memory.mem_insert (m : Memory) (i : Nat) (v : Pixel) (c : Nat × Pixel) :
    c ∈ Memory.insert m i v ↔ c = (i, v) ∨ c ∈ m := by
  induction m with
  | nil => simp [Memory.insert]
  | cons d rest ih =>
    rw [Memory.insert]
    split
    · simp
    · simp only [List.mem_cons, ih]
      tauto

theorem Memory.wf_insert (m : Memory) (i : Nat) (v : Pixel) (hv : v ≠ 0#24) (hi : ∀ c ∈ m, c.1 ≠ i)
    (h : Memory.wf m = true) : Memory.wf (Memory.insert m i v) = true := by
  rw [Memory.wf_iff] at h ⊢
  refine ⟨?_, fun c hc => ?_⟩
  · obtain ⟨hp, -⟩ := h
    induction m with
    | nil => simp [Memory.insert]
    | cons d rest ih =>
      obtain ⟨k, w⟩ := d
      have hk : k ≠ i := hi (k, w) (by simp)
      have hp' := List.pairwise_cons.mp hp
      rw [Memory.insert]
      split
      · rename_i hlt
        refine List.pairwise_cons.mpr ⟨fun c hc => ?_, hp⟩
        rcases List.mem_cons.mp hc with rfl | hc
        · exact hlt
        · have := hp'.1 c hc
          simp only at this ⊢
          omega
      · refine List.pairwise_cons.mpr ⟨fun c hc => ?_, ih (fun c hc => hi c (by simp [hc])) hp'.2⟩
        rcases (Memory.mem_insert rest i v c).mp hc with rfl | hc
        · simp only
          omega
        · exact hp'.1 c hc
  · rcases (Memory.mem_insert m i v c).mp hc with rfl | hc
    · exact hv
    · exact h.2 c hc

/-- A store keeps the canonical form. -/
theorem Memory.wf_write (m : Memory) (i : Nat) (v : Pixel) (h : Memory.wf m = true) :
    Memory.wf (Memory.write m i v) = true := by
  rw [Memory.write]
  split
  · exact Memory.wf_filter m _ h
  · exact Memory.wf_insert _ _ _ (by assumption) (Memory.erase_ne m i) (Memory.wf_filter m _ h)

/-- A fill keeps the canonical form. -/
theorem Memory.wf_fill (m : Memory) (n : Nat) (v : Pixel) (h : Memory.wf m = true) :
    Memory.wf (Memory.fill m n v) = true := by
  have hf := Memory.wf_filter m (fun c => decide (n ≤ c.1)) h
  rw [Memory.wf_iff] at hf ⊢
  rw [Memory.fill]
  split
  · simpa using hf
  · rename_i hv
    refine ⟨List.pairwise_append.mpr ⟨?_, hf.1, fun a ha b hb => ?_⟩, fun c hc => ?_⟩
    · exact List.pairwise_map.mpr List.pairwise_lt_range
    · simp only [List.mem_map, List.mem_range] at ha
      obtain ⟨i, hi, rfl⟩ := ha
      have := (List.mem_filter.mp hb).2
      simp only [decide_eq_true_eq] at this ⊢
      omega
    · rcases List.mem_append.mp hc with hc | hc
      · simp only [List.mem_map, List.mem_range] at hc
        obtain ⟨i, hi, rfl⟩ := hc
        exact hv
      · exact hf.2 c hc

/-- What a store lists: the stored index, and indices listed before. -/
theorem Memory.mem_write (m : Memory) (i : Nat) (v : Pixel) (c : Nat × Pixel) (h : c ∈ Memory.write m i v) :
    c.1 = i ∨ c ∈ m := by
  rw [Memory.write] at h
  split at h
  · exact .inr (List.mem_filter.mp h).1
  · rcases (Memory.mem_insert _ _ _ _).mp h with rfl | h
    · exact .inl rfl
    · exact .inr (List.mem_filter.mp h).1

/-- What a fill lists: indices below `n`, and indices listed before. -/
theorem Memory.mem_fill (m : Memory) (n : Nat) (v : Pixel) (c : Nat × Pixel) (h : c ∈ Memory.fill m n v) :
    c.1 < n ∨ c ∈ m := by
  rw [Memory.fill] at h
  rcases List.mem_append.mp h with h | h
  · split at h
    · simp at h
    · simp only [List.mem_map, List.mem_range] at h
      obtain ⟨i, hi, rfl⟩ := h
      exact .inl hi
  · exact .inr (List.mem_filter.mp h).1

theorem storePixel_wf (p : Params) (m : Memory) (i : Nat) (v : Pixel) (h : Memory.wf m = true) :
    Memory.wf (storePixel p m i v) = true := by
  rw [storePixel]
  split
  · exact Memory.wf_write m i v h
  · exact h

end Sys2Proof.Machine
end

