-- ==== Sys2Proof/Laws/Step.lean ====
section
/-! SUPPORT. One equation for the step: the next state of each sub-block as a function of its own state and inputs.
Later proofs cite it and never unfold the step. -/

namespace Sys2Proof.Machine

/-! ## Shared operations -/

@[simp] theorem andThen_next (s : State) (f : State → Result) : andThen (.next s) f = f s := rfl
@[simp] theorem andThen_fault (r : Fault) (f : State → Result) : andThen (.fault r) f = .fault r := rfl
@[simp] theorem andThen_refused (r : Refusal) (f : State → Result) : andThen (.refused r) f = .refused r := rfl

/-- Everything an effect on LedDriver can do when it completes. -/
theorem onLed_eq_next (s t : State) (f : Params → Led → Except Fault Led) :
    onLed s f = .next t ↔ ∃ l, f s.params s.led = .ok l ∧ t = { s with led := l } := by
  unfold onLed
  cases f s.params s.led <;> simp [eq_comm]

@[simp] theorem onClap_eq (s : State) (f : Params → Clap → Clap) :
    onClap s f = .next { s with clap := f s.params s.clap } := rfl

theorem whenReady_idle (f : Params → Led → Except Fault Led) (p : Params) (l : Led) (h : l.phase = .idle) :
    whenReady f p l = f p l := by
  simp [whenReady, h]

theorem whenReady_busy (f : Params → Led → Except Fault Led) (p : Params) (l : Led) (h : l.phase ≠ .idle) :
    whenReady f p l = .ok l := by
  simp [whenReady, h]

theorem fetchPixel_ok (p : Params) (m : Memory) (i : Nat) (h : i < p.nLeds) :
    fetchPixel p m i = .ok (Memory.read m i) := by
  simp [fetchPixel, h]

theorem startPixel_ok (p : Params) (l : Led) (i : Nat) (h : i < p.nLeds) :
    startPixel p l i =
      .ok (startSymbol p { l with ledIdx := BitVec.ofNat 16 i, bitIdx := 0#5 }
        (wire p.byteOrder (Memory.read l.pix i))) := by
  simp [startPixel, fetchPixel, h]

/-! ## The sub-blocks' parts of a cycle -/

/-- What a LedDriver operation does to LedDriver's state. -/
def ledEffect (i : Instr) (p : Params) (l : Led) : Except Fault Led :=
  match i with
  | .nop => whenReady (fun _ l => .ok l) p l
  | .load idx r g b =>
    whenReady (fun p l => .ok (if idx < p.nLeds then
      ({ l with pix := storePixel p l.pix idx (pixel r g b) } : Led).clearDisplayed else l)) p l
  | .fill r g b =>
    whenReady (fun p l => .ok ({ l with pix := Memory.fill l.pix p.nLeds (pixel r g b) } : Led).clearDisplayed) p l
  | .invalidate => whenReady (fun _ l => .ok l.clearDisplayed) p l
  | .refresh => whenReady (fun p l => if l.displayed then .ok l else startTransmission p l) p l
  | .sample _ _ _ => .ok l
  | .render _ _ _ => .ok l
  | .sym0 => symbolCycle false p l
  | .sym1 => symbolCycle true p l
  | .symLatch => .ok (latchCycle l)

/-- LedDriver's next state in a cycle with `rst = 0`. -/
def ledNext (i : Inputs) (p : Params) (l : Led) : Except Fault Led :=
  match ledOperation i l with
  | some op => ledEffect op p l
  | none => .ok l

/-- ClapDetector's next state in a cycle with `rst = 0`. -/
def clapNext (i : Inputs) (p : Params) (c : Clap) : Clap :=
  if i.sampleValid then clapSample i.reading.toNat i.tick i.lastTouchTick p c else c.setEvent false

theorem sampleOperation_eq (i : Inputs) : sampleOperation i = .sample i.reading.toNat i.tick i.lastTouchTick := by
  rw [sampleOperation, decodeSample, sampleWord_reading, sampleWord_tick, sampleWord_touch]

theorem renderOperation_eq (i : Inputs) : renderOperation i = .render i.on i.brightness.toNat i.hue.toNat := by
  rw [renderOperation, decodeRender, renderWord_on, renderWord_brightness, renderWord_hue]

theorem decodeCmd_cases (w : CmdWord) :
    decodeCmd w = .nop ∨ decodeCmd w = .load (cmdIdx w).toNat (cmdR w) (cmdG w) (cmdB w) ∨
      decodeCmd w = .fill (cmdR w) (cmdG w) (cmdB w) ∨ decodeCmd w = .invalidate ∨ decodeCmd w = .refresh := by
  unfold decodeCmd
  split <;> simp

theorem exec_eq_onLed (i : Instr) (s : State) (h : (∀ a b c, i ≠ .sample a b c) ∧ ∀ a b c, i ≠ .render a b c) :
    exec i s = onLed s (ledEffect i) := by
  cases i with
  | sample a b c => exact absurd rfl (h.1 a b c)
  | render a b c => exact absurd rfl (h.2 a b c)
  | _ => rfl

theorem ledOperation_ne (i : Inputs) (l : Led) (op : Instr) (h : ledOperation i l = some op) :
    (∀ a b c, op ≠ .sample a b c) ∧ ∀ a b c, op ≠ .render a b c := by
  unfold ledOperation at h
  split at h
  · split at h
    · obtain rfl := Option.some.inj h
      rcases decodeCmd_cases i.cmd with h | h | h | h | h <;> simp [h]
    · simp at h
  all_goals
    obtain rfl := Option.some.inj h
    first | (split <;> simp) | simp

theorem ledCycle_eq (i : Inputs) (s : State) : ledCycle exec i s = onLed s (ledNext i) := by
  unfold ledCycle onLed ledNext
  cases h : ledOperation i s.led with
  | none => rfl
  | some op => exact exec_eq_onLed op s (ledOperation_ne i s.led op h)

theorem clapCycle_eq (i : Inputs) (s : State) : clapCycle exec i s = .next { s with clap := clapNext i s.params s.clap } := by
  unfold clapCycle clapNext
  rw [sampleOperation_eq]
  split <;> rfl

/-- ColorEngine's part of a cycle, in any state with that cycle's inputs. -/
theorem colourCycle_eq (i : Inputs) (s : State) :
    colourCycle exec i s =
      .next { s with rgb := renderOutput i.on i.brightness.toNat i.hue.toNat s.draws,
                     draws := s.draws + renderDraws i.on i.brightness.toNat i.hue.toNat } := by
  unfold colourCycle
  rw [renderOperation_eq]
  rfl

/-- The whole step: the reset edge, or the three sub-blocks side by side. -/
theorem step_eq (s : State) :
    step s =
      if s.inputs.rst then
        .next { params := s.params, led := Led.reset s.params, clap := Clap.reset s.params,
                stimulus := s.restStimulus, rgb := s.colourOutput,
                draws := s.draws + s.colourDraws }
      else
        match ledNext s.inputs s.params s.led with
        | .ok l =>
          .next { params := s.params, led := l, clap := clapNext s.inputs s.params s.clap,
                  stimulus := s.restStimulus, rgb := s.colourOutput,
                  draws := s.draws + s.colourDraws }
        | .error r => .fault r := by
  unfold step cycle
  split
  · rw [colourCycle_eq]
    rfl
  · rw [ledCycle_eq]
    unfold onLed
    simp only [State.advance_params, State.advance_led]
    cases ledNext s.inputs s.params s.led with
    | error r => rfl
    | ok l => simp [clapCycle_eq, colourCycle_eq, State.colourOutput, State.colourDraws]

/-- Everything a step with `rst = 0` can do when it completes. -/
theorem step_next (s t : State) (hr : s.inputs.rst = false) :
    step s = .next t ↔
      ∃ l, ledNext s.inputs s.params s.led = .ok l ∧
        t = { params := s.params, led := l, clap := clapNext s.inputs s.params s.clap,
              stimulus := s.restStimulus, rgb := s.colourOutput,
              draws := s.draws + s.colourDraws } := by
  rw [step_eq, hr]
  cases ledNext s.inputs s.params s.led <;> simp [eq_comm]

/-- Everything a step with `rst = 1` does (R230). -/
theorem step_reset (s : State) (hr : s.inputs.rst = true) :
    step s =
      .next { params := s.params, led := Led.reset s.params, clap := Clap.reset s.params,
              stimulus := s.restStimulus, rgb := s.colourOutput,
              draws := s.draws + s.colourDraws } := by
  rw [step_eq, hr]
  rfl

end Sys2Proof.Machine
end

