-- ==== Sys2Proof/Laws/Led.lean ====
section
/-! SUPPORT. Everything LedDriver can do in one cycle with `rst = 0`: in IDLE by the command accepted, else by the phase
alone. Later proofs cite these and never unfold the sequencer. -/

namespace Sys2Proof.Machine

/-! ## What the host presents -/

theorem noReset_inputs {s : State} (h : noReset s.stimulus) : s.inputs.rst = false := by
  unfold State.inputs
  cases hs : s.stimulus with
  | nil => rfl
  | cons a rest =>
    cases a with
    | cycle i => exact h (.cycle i) (by simp [hs]) i rfl
    | hold w => rfl

theorem noReset_rest {s : State} (h : noReset s.stimulus) : noReset s.restStimulus := by
  unfold State.restStimulus
  cases hs : s.stimulus with
  | nil => intro x hx; simp at hx
  | cons a rest =>
    have hr : noReset rest := fun x hx => h x (by simp [hs, hx])
    cases a with
    | cycle i => exact hr
    | hold w =>
      simp only
      split
      · exact hr
      · rw [← hs]
        exact h

theorem cmdReady_iff (s : State) : s.cmdReady = true ↔ s.led.phase = .idle := by
  simp [State.cmdReady]

/-! ## The sequencer -/

/-- Everything the edge that ends a symbol can do when it completes. -/
theorem afterSymbol_cases {p : Params} {l l' : Led} (h : afterSymbol p l = .ok l') :
    (l.bitIdx ≠ 23#5 ∧ l' = startSymbol p { l with bitIdx := l.bitIdx + 1#5 } (l.shift <<< 1)) ∨
    (l.bitIdx = 23#5 ∧ l.ledIdx.toNat ≠ p.nLeds - 1 ∧ l.ledIdx.toNat + 1 < p.nLeds ∧
      l' = startSymbol p { l with ledIdx := BitVec.ofNat 16 (l.ledIdx.toNat + 1), bitIdx := 0#5 }
        (wire p.byteOrder (Memory.read l.pix (l.ledIdx.toNat + 1)))) ∨
    (l.bitIdx = 23#5 ∧ l.ledIdx.toNat = p.nLeds - 1 ∧ l' = endTransmission p l) := by
  unfold afterSymbol at h
  by_cases hb : l.bitIdx = 23#5
  · by_cases hl : l.ledIdx.toNat = p.nLeds - 1
    · simp [hb, hl] at h
      exact .inr (.inr ⟨hb, hl, h.symm⟩)
    · by_cases hn : l.ledIdx.toNat + 1 < p.nLeds
      · simp [hb, hl, startPixel_ok _ _ _ hn] at h
        exact .inr (.inl ⟨hb, hl, hn, h.symm⟩)
      · simp [hb, hl, startPixel, fetchPixel, hn] at h
  · simp [hb] at h
    exact .inl ⟨hb, h.symm⟩

/-- It completes wherever the pixel index is in range. -/
theorem afterSymbol_total (p : Params) (l : Led) (h : l.ledIdx.toNat < p.nLeds) : ∃ l', afterSymbol p l = .ok l' := by
  unfold afterSymbol
  split
  · exact ⟨_, rfl⟩
  · split
    · rw [startPixel_ok _ _ _ (by omega)]
      exact ⟨_, rfl⟩
    · exact ⟨_, rfl⟩

/-- LedDriver's next state while PHASE is not IDLE, a function of its own state alone (R167 to R175). -/
def busyNext (p : Params) (l : Led) : Except Fault Led :=
  match l.phase with
  | .idle => .ok l
  | .high =>
    if l.cnt ≠ 0 then .ok { l with cnt := l.cnt - 1 } else .ok { l with phase := .low, cnt := tl p (wireBit l.shift) - 1 }
  | .low => if l.cnt ≠ 0 then .ok { l with cnt := l.cnt - 1 } else afterSymbol p l
  | .latch => if l.cnt ≠ 0 then .ok { l with cnt := l.cnt - 1 } else .ok { l with phase := .idle }

/-- One cycle of the symbol that is on the wire. -/
theorem symbolCycle_onWire (p : Params) (l : Led) (h : l.phase = .high ∨ l.phase = .low) :
    symbolCycle (wireBit l.shift) p l = busyNext p l := by
  rcases h with h | h <;> simp [symbolCycle, busyNext, h]

theorem ledEffect_symbol (bit : Bool) (p : Params) (l : Led) :
    ledEffect (if bit then .sym1 else .sym0) p l = symbolCycle bit p l := by
  cases bit <;> rfl

theorem ledNext_busy (i : Inputs) (p : Params) (l : Led) (h : l.phase ≠ .idle) : ledNext i p l = busyNext p l := by
  cases hp : l.phase
  · exact absurd hp h
  · simp only [ledNext, ledOperation, hp, ledEffect_symbol, symbolCycle_onWire p l (.inl hp)]
  · simp only [ledNext, ledOperation, hp, ledEffect_symbol, symbolCycle_onWire p l (.inr hp)]
  · simp only [ledNext, ledOperation, hp, ledEffect, latchCycle, busyNext]
    split <;> rfl

/-! ## The command port -/

/-- Everything a cycle in IDLE can do when it completes. -/
theorem ledNext_idle_cases {s : State} {l : Led} (hi : s.led.phase = .idle) (hr : s.inputs.rst = false)
    (hl : ledNext s.inputs s.params s.led = .ok l) :
    (l = s.led ∧ ∀ i, accepts s i →
      i = .nop ∨ (∃ idx r g b, i = .load idx r g b ∧ ¬idx < s.params.nLeds) ∨
        (i = .refresh ∧ s.led.displayed = true)) ∨
    (∃ idx r g b, accepts s (.load idx r g b) ∧ idx < s.params.nLeds ∧
      l = { s.led with pix := Memory.write s.led.pix idx (pixel r g b), displayed := false }) ∨
    (∃ r g b, accepts s (.fill r g b) ∧
      l = { s.led with pix := Memory.fill s.led.pix s.params.nLeds (pixel r g b), displayed := false }) ∨
    (accepts s .invalidate ∧ l = { s.led with displayed := false }) ∨
    (accepts s .refresh ∧ s.led.displayed = false ∧ 1 ≤ s.params.nLeds ∧
      l = startSymbol s.params { s.led with ledIdx := 0#16, bitIdx := 0#5 }
        (wire s.params.byteOrder (Memory.read s.led.pix 0))) := by
  simp only [ledNext, ledOperation, hi] at hl
  by_cases hv : s.inputs.cmdValid = true
  · have hacc : acceptsCommand s := ⟨hv, (cmdReady_iff s).mpr hi, hr⟩
    simp only [hv, if_true] at hl
    rcases decodeCmd_cases s.inputs.cmd with h | h | h | h | h <;> rw [h] at hl <;>
      simp only [ledEffect, whenReady_idle _ _ _ hi] at hl
    · cases hl
      exact .inl ⟨rfl, by rintro i ⟨-, rfl⟩; exact .inl h⟩
    · split at hl
      · cases hl
        exact .inr (.inl ⟨_, _, _, _, ⟨hacc, h⟩, ‹_›, by simp [Led.clearDisplayed, storePixel, *]⟩)
      · cases hl
        exact .inl ⟨rfl, by rintro i ⟨-, rfl⟩; exact .inr (.inl ⟨_, _, _, _, h, ‹_›⟩)⟩
    · cases hl
      exact .inr (.inr (.inl ⟨_, _, _, ⟨hacc, h⟩, rfl⟩))
    · cases hl
      exact .inr (.inr (.inr (.inl ⟨⟨hacc, h⟩, rfl⟩)))
    · split at hl
      · cases hl
        exact .inl ⟨rfl, by rintro i ⟨-, rfl⟩; exact .inr (.inr ⟨h, ‹_›⟩)⟩
      · by_cases hn : 0 < s.params.nLeds
        · rw [startTransmission, startPixel_ok _ _ 0 hn] at hl
          cases hl
          exact .inr (.inr (.inr (.inr ⟨⟨hacc, h⟩, by simp_all, hn, rfl⟩)))
        · simp [startTransmission, startPixel, fetchPixel, hn] at hl
  · simp [hv] at hl
    exact .inl ⟨hl.symm, by rintro i ⟨⟨h, -⟩, -⟩; exact absurd h hv⟩

end Sys2Proof.Machine
end

