-- ==== Sys2Proof/Laws/PerInstr.lean ====
section
/-! SUPPORT. Statements made for all instructions, one lemma per constructor. -/

namespace Sys2Proof.Laws

/-- The match pattern of an operation's row in spec/opcode_table.json, under the mask of format C (R81); formats S, K
and W have no opcode bits. -/
def matchPattern : Instr → Option CmdWord
  | .nop => some 0x00000000000#44
  | .load _ _ _ _ => some 0x10000000000#44
  | .fill _ _ _ => some 0x20000000000#44
  | .invalidate => some 0x30000000000#44
  | .refresh => some 0x40000000000#44
  | .sample _ _ _ => none
  | .render _ _ _ => none
  | .sym0 => none
  | .sym1 => none
  | .symLatch => none

/-- The encoder's word of a command has the row's match pattern under the row's mask, and an operation with no opcode
bits is never encoded as a command word (R81, R83, R84, R96). -/
def OpcodeMatch.Statement (i : Instr) : Prop :=
  ∀ (p : Params) (w : CmdWord), encode p i = .cmd w → matchPattern i = some (w &&& 0xF0000000000#44)

theorem cmdWord_mask (op : BitVec 4) (idx : BitVec 16) (r g b : Byte) :
    cmdWord op idx r g b &&& 0xF0000000000#44 = op.setWidth 44 <<< 40 := by
  rw [cmdWord]
  apply BitVec.eq_of_getLsbD_eq
  intro i hi
  simp only [BitVec.getLsbD_and, BitVec.getLsbD_append, BitVec.getLsbD_shiftLeft, BitVec.getLsbD_setWidth]
  interval_cases i <;> simp

theorem OpcodeMatch.nop : OpcodeMatch.Statement .nop := by
  intro p w h
  rw [← PortWord.cmd.inj h, cmdWord_mask]
  rfl

theorem OpcodeMatch.load (idx : Nat) (r g b : Byte) : OpcodeMatch.Statement (.load idx r g b) := by
  intro p w h
  rw [← PortWord.cmd.inj h, cmdWord_mask]
  rfl

theorem OpcodeMatch.fill (r g b : Byte) : OpcodeMatch.Statement (.fill r g b) := by
  intro p w h
  rw [← PortWord.cmd.inj h, cmdWord_mask]
  rfl

theorem OpcodeMatch.invalidate : OpcodeMatch.Statement .invalidate := by
  intro p w h
  rw [← PortWord.cmd.inj h, cmdWord_mask]
  rfl

theorem OpcodeMatch.refresh : OpcodeMatch.Statement .refresh := by
  intro p w h
  rw [← PortWord.cmd.inj h, cmdWord_mask]
  rfl

theorem OpcodeMatch.sample (reading : Nat) (tick lastTouchTick : Tick) :
    OpcodeMatch.Statement (.sample reading tick lastTouchTick) :=
  fun _ _ h => PortWord.noConfusion h

theorem OpcodeMatch.render (on : Bool) (brightness hue : Nat) : OpcodeMatch.Statement (.render on brightness hue) :=
  fun _ _ h => PortWord.noConfusion h

theorem OpcodeMatch.sym0 : OpcodeMatch.Statement .sym0 :=
  fun _ _ h => PortWord.noConfusion h

theorem OpcodeMatch.sym1 : OpcodeMatch.Statement .sym1 :=
  fun _ _ h => PortWord.noConfusion h

theorem OpcodeMatch.symLatch : OpcodeMatch.Statement .symLatch :=
  fun _ _ h => PortWord.noConfusion h

end Sys2Proof.Laws
end

