-- ==== Sys2Proof/Tests/Slice0.lean ====
section
/-! SUPPORT. The model's own tests: ill-formed operands, words written out from the spec's encodings, single steps with
the results 95_test_vectors.md gives, and for each statement with hypotheses a state that meets them. -/

namespace Sys2Proof.Tests

open Sys2Proof.Machine

/-! ## Small states -/

/-- An idle block with parameters `p` and frame buffer `m`. -/
def idleState (p : Params) (m : Memory) (displayed : Bool) : State :=
  { State.resetWith p with led := { Led.reset p with pix := m, phase := .idle, cnt := 0, displayed := displayed } }

/-- The pixel of program P1, 24'h12A5FF. -/
def p1Pix : Memory := [(0, 0x12A5FF#24)]

/-- `(PHASE, LED_IDX, BIT_IDX, CNT, SHIFT)` as in section 4.5, with TINY. -/
def seqState (nLeds : Nat) (m : Memory) (phase : Phase) (ledIdx : BitVec 16) (bitIdx : BitVec 5) (cnt : Nat)
    (shift : BitVec 24) : State :=
  { State.resetWith (Params.tiny nLeds) with
    led := { pix := m, shift := shift, phase := phase, ledIdx := ledIdx, bitIdx := bitIdx, cnt := cnt,
             displayed := false } }

/-- ClapDetector as in section 3.1, with the default constants. -/
def clapAt (c : ClapState) (last : Tick) (acc : BitVec 26) : State :=
  { State.resetWith (Params.tiny 1) with clap := { clapState := c, lastClapTick := last, acc := acc, event := false } }

/-- The state with one entry before the queue. -/
def present (s : State) (x : Stimulus) : State := { s with stimulus := x :: s.stimulus }

/-- What holds of the next state, `false` where the machine stops. -/
def nextHolds (o : Result) (f : State → Bool) : Bool :=
  match o with
  | .next t => f t
  | .fault _ => false
  | .refused _ => false

/-- `(PHASE, LED_IDX, BIT_IDX, CNT, SHIFT)` of a state. -/
def seqTuple (s : State) : Phase × Nat × Nat × Nat × BitVec 24 :=
  (s.led.phase, s.led.ledIdx.toNat, s.led.bitIdx.toNat, s.led.cnt, s.led.shift)

/-- `(CLAP_STATE, LAST_CLAP_TICK, ACC, EVENT)` of a state. -/
def clapTuple (s : State) : ClapState × Nat × Nat × Bool :=
  (s.clap.clapState, s.clap.lastClapTick.toNat, s.clap.acc.toNat, s.clap.event)

/-! ## WellFormed refuses each ill-formed operand -/

theorem test_wf_load_index : Instr.wf (.load 65536 0#8 0#8 0#8) = false ∧ Instr.wf (.load 65535 0#8 0#8 0#8) = true := by
  decide

theorem test_wf_sample_reading : Instr.wf (.sample 1024 0#32 0#32) = false ∧ Instr.wf (.sample 1023 0#32 0#32) = true := by
  decide

theorem test_wf_render_brightness : Instr.wf (.render true 128 0) = false ∧ Instr.wf (.render true 127 0) = true := by
  decide

theorem test_wf_render_hue : Instr.wf (.render true 1 256) = false ∧ Instr.wf (.render true 1 255) = true := by
  decide

/-- The constraints of R9: both example sets meet them; each of these breaks one. -/
theorem test_wf_params :
    (Params.tiny 1).wf = true ∧ (Params.ref8 65536).wf = true ∧ (Params.tiny 0).wf = false ∧
    (Params.tiny 65537).wf = false ∧ ({ Params.tiny 1 with t1h := 1 } : Params).wf = false ∧
    ({ Params.tiny 1 with tReset := 0 } : Params).wf = false ∧
    ({ Params.tiny 1 with interMin := 701 } : Params).wf = false ∧
    ({ Params.tiny 1 with avgShift := 17 } : Params).wf = false := by
  decide

/-! ## Words written out from the encodings of 30_encoding.md -/

/-- R80, R81: `op` 0, 1, 2 in bits 43 to 40, then `idx`, `r`, `g`, `b`. -/
theorem test_decode_nop_load_fill :
    decodeCmd 0b0000_0000000000000000_00000000_00000000_00000000#44 = .nop ∧
    decodeCmd 0b0001_0000000000000010_00010000_00100000_00110000#44 = .load 2 0x10#8 0x20#8 0x30#8 ∧
    decodeCmd 0b0010_0000000000000000_00001000_00000100_00000000#44 = .fill 8#8 4#8 0#8 := by
  decide

/-- R81: `op` 3 and 4; fields that are not read are ignored. -/
theorem test_decode_invalidate_refresh :
    decodeCmd 0b0011_0000000000000001_00000000_11111111_00000000#44 = .invalidate ∧
    decodeCmd 0b0100_1111111111111111_00000000_00000000_00000001#44 = .refresh := by
  decide

/-- R97: the first and the last reserved code. -/
theorem test_decode_reserved : decodeCmd 0x5000012A5FF#44 = .nop ∧ decodeCmd 0xF000012A5FF#44 = .nop := by
  decide

/-- R83: `reading` 800, `tick` 1100, `last_touch_tick` 7. -/
theorem test_decode_sample :
    decodeSample
      0b1100100000_00000000000000000000010001001100_00000000000000000000000000000111#74 =
        .sample 800 1100#32 7#32 := by
  decide

/-- R84: `on` 1, `brightness` 32, `hue` 100 is 16'hA064 (program P2); `on` 0 leaves bit 15 clear. -/
theorem test_decode_render :
    decodeRender 0b1_0100000_01100100#16 = .render true 32 100 ∧
    decodeRender 0b0_1000000_10111111#16 = .render false 64 191 := by
  decide

/-- R91, R92, R93 with TINY; a waveform that is no symbol is refused by name (R98). -/
theorem test_decode_wave :
    decode (Params.tiny 1) (.wire [true, false, false]) = .ok .sym0 ∧
    decode (Params.tiny 1) (.wire [true, true, false]) = .ok .sym1 ∧
    decode (Params.tiny 1) (.wire [false, false, false, false]) = .ok .symLatch ∧
    decode (Params.tiny 1) (.wire [true, true, true]) = .error .notASymbol := by
  decide

/-- Words numbered as the opcode table numbers them; a width that is no row's is refused. -/
theorem test_decode_table_word :
    decodeTableWord 44 0x1000012A5FF = some (.load 0 0x12#8 0xA5#8 0xFF#8) ∧
    decodeTableWord 48 0x20000007080 = some (.fill 0#8 0x70#8 0x80#8) ∧
    decodeTableWord 16 0x8800 = some (.render true 8 0) ∧ decodeTableWord 32 0 = none ∧
    decodeTableWord 48 (2 ^ 44) = none := by
  decide

/-- The example of R88 and the byte orders RGB and BGR. -/
theorem test_wire_word :
    wire .grb 0x12A5FF#24 = 0xA512FF#24 ∧ wire .rgb 0x12A5FF#24 = 0x12A5FF#24 ∧
    wire .bgr 0x12A5FF#24 = 0xFFA512#24 := by
  decide

/-! ## One step of each operation (95_test_vectors.md) -/

/-- M9: NOP changes nothing. -/
theorem test_nop :
    nextHolds (exec .nop (idleState (Params.tiny 1) p1Pix true))
      (fun t => decide (t = idleState (Params.tiny 1) p1Pix true)) = true := by
  decide

/-- R161's example: `LOAD 1, 0x10, 0x20, 0x30` with two pixels. -/
theorem test_load :
    nextHolds (exec (.load 1 0x10#8 0x20#8 0x30#8) (idleState (Params.tiny 2) [] true))
      (fun t => decide (t.led.pix = [(1, 0x102030#24)] ∧ t.led.displayed = false)) = true := by
  decide

/-- M3: `idx` = N_LEDS changes neither PIX nor DISPLAYED. -/
theorem test_load_out_of_range :
    nextHolds (exec (.load 2 0x10#8 0x20#8 0x30#8) (idleState (Params.tiny 2) p1Pix true))
      (fun t => decide (t = idleState (Params.tiny 2) p1Pix true)) = true := by
  decide

/-- R162's example: `FILL 8, 4, 0` with three pixels. -/
theorem test_fill :
    nextHolds (exec (.fill 8#8 4#8 0#8) (idleState (Params.tiny 3) [(1, 0x102030#24)] true))
      (fun t => decide
        (t.led.pix = [(0, 0x080400#24), (1, 0x080400#24), (2, 0x080400#24)] ∧ t.led.displayed = false)) = true := by
  decide

/-- M6. -/
theorem test_invalidate :
    nextHolds (exec .invalidate (idleState (Params.tiny 1) p1Pix true))
      (fun t => decide (t = idleState (Params.tiny 1) p1Pix false)) = true := by
  decide

/-- Q1: the first bit of A512FF is 1, so CNT is `T1H - 1`. -/
theorem test_refresh :
    nextHolds (exec .refresh (idleState (Params.tiny 1) p1Pix false))
      (fun t => decide (seqTuple t = (.high, 0, 0, 1, 0xA512FF#24))) = true := by
  decide

/-- M7: REFRESH with DISPLAYED = 1. -/
theorem test_refresh_displayed :
    nextHolds (exec .refresh (idleState (Params.tiny 1) p1Pix true))
      (fun t => decide (t = idleState (Params.tiny 1) p1Pix true)) = true := by
  decide

/-- A14: in the window and detected. -/
theorem test_sample_second_clap :
    nextHolds (exec (.sample 800 1300#32 0#32) (clapAt .firstClap 1100#32 800#26))
      (fun t => decide (clapTuple t = (.doubleClap, 1300, 1600, false))) = true := by
  decide

/-- A24: confirmed, across a wrap of the tick counter. -/
theorem test_sample_confirms :
    nextHolds (exec (.sample 0 201#32 4294965296#32) (clapAt .doubleClap 100#32 1600#26))
      (fun t => decide (clapTuple t = (.noClap, 100, 1600, true))) = true := by
  decide

/-- K26 and K38. -/
theorem test_render :
    nextHolds (exec (.render true 32 100) State.reset) (fun t => decide (t.rgb = ⟨0#8, 112#8, 128#8⟩)) = true ∧
    nextHolds (exec (.render true 56 170) State.reset) (fun t => decide (t.rgb = ⟨255#8, 137#8, 218#8⟩)) = true := by
  decide

/-- K42: out-of-domain operands are harmless with `on = 0`. -/
theorem test_render_off :
    nextHolds (exec (.render false 0 255) State.reset) (fun t => decide (t.rgb = ⟨0#8, 0#8, 0#8⟩)) = true := by
  decide

/-- Q5 and Q7: SYM0's high part ends, and after its low part the next bit is a 1. -/
theorem test_sym0 :
    nextHolds (exec .sym0 (seqState 1 p1Pix .high 0#16 1#5 0 0x4A25FE#24))
      (fun t => decide (seqTuple t = (.low, 0, 1, 1, 0x4A25FE#24))) = true ∧
    nextHolds (exec .sym0 (seqState 1 p1Pix .low 0#16 1#5 0 0x4A25FE#24))
      (fun t => decide (seqTuple t = (.high, 0, 2, 1, 0x944BFC#24))) = true := by
  decide

/-- Q8 and Q11: after the last bit of the last pixel the latch interval, of another pixel the next fetch. -/
theorem test_sym1 :
    nextHolds (exec .sym1 (seqState 1 p1Pix .low 0#16 23#5 0 0x800000#24))
      (fun t => decide (seqTuple t = (.latch, 0, 23, 3, 0x800000#24) ∧ t.led.displayed = true)) = true ∧
    nextHolds (exec .sym1 (seqState 2 [(1, 0x007080#24)] .low 0#16 23#5 0 0x800000#24))
      (fun t => decide (seqTuple t = (.high, 1, 0, 0, 0x700080#24))) = true := by
  decide

/-- Q9 and Q10. -/
theorem test_symLatch :
    nextHolds (exec .symLatch (seqState 1 p1Pix .latch 0#16 23#5 3 0x800000#24))
      (fun t => decide (seqTuple t = (.latch, 0, 23, 2, 0x800000#24))) = true ∧
    nextHolds (exec .symLatch (seqState 1 p1Pix .latch 0#16 23#5 0 0x800000#24))
      (fun t => decide (seqTuple t = (.idle, 0, 23, 0, 0x800000#24))) = true := by
  decide

/-! ## Reset and the step -/

/-- The reset state of R47 under the default parameters: nothing listed in memory, LATCH with TRESET - 1 to run. -/
theorem test_reset :
    Memory.wf State.reset.led.pix = true ∧ seqTuple State.reset = (.latch, 0, 0, 399, 0#24) ∧
    clapTuple State.reset = (.noClap, 0, 0, false) := by
  decide

/-- Section 4.6: a reset edge during a transmission. -/
theorem test_reset_edge :
    nextHolds (step (present (seqState 1 p1Pix .high 0#16 0#5 1 0xA512FF#24) (.cycle { idleInputs with rst := true })))
      (fun t => decide (seqTuple t = (.latch, 0, 0, 3, 0#24) ∧ t.led.pix = [] ∧ t.dout = false)) = true := by
  decide

/-- A command placed by withFetchWord runs as the very next step, from reset too: `FILL 0, 112, 128` (P2). -/
theorem test_fetch_command :
    nextHolds (step (State.reset.withFetchWord 48 0x20000007080))
      (fun t => decide (Memory.read t.led.pix 2 = 0x007080#24 ∧ t.stimulus = [])) = true := by
  decide

/-- So do a SAMPLE bundle (A1) and a RENDER bundle (K7). -/
theorem test_fetch_bundles :
    nextHolds (step (State.reset.withFetchWord 80 (800 * 2 ^ 64 + 1100 * 2 ^ 32)))
      (fun t => decide (clapTuple t = (.firstClap, 1100, 800, false))) = true ∧
    nextHolds (step (State.reset.withFetchWord 16 0x8800)) (fun t => decide (t.rgb = ⟨8#8, 0#8, 0#8⟩)) = true := by
  decide

/-- A held command waits while the block is busy and is gone once accepted (M10, R100). -/
theorem test_hold :
    nextHolds (step (present State.reset (.hold 0x30000000000#44)))
      (fun t => decide (t.stimulus = [.hold 0x30000000000#44])) = true ∧
    nextHolds (step (present (idleState (Params.tiny 1) p1Pix true) (.hold 0x30000000000#44)))
      (fun t => decide (t.stimulus = [] ∧ t.led.displayed = false)) = true := by
  decide

/-- The lines of a script as R100 and R101 expand them. -/
theorem test_script :
    scriptStimulus (Params.tiny 1) 0 [.showCfg true 32 100, .line (.wait 1), .force, .waitRdy] =
      [.cycle (renderInputs 0xA064#16), .hold 0x20000007080#44, .hold 0x40000000000#44, .cycle idleInputs,
       .hold 0x30000000000#44, .hold 0x40000000000#44, .hold 0#44] := by
  decide

/-- Out of domain SHOWCFG still shows the triple of its RENDER, and the next one that of the next draw (R101, R148). -/
theorem test_script_out_of_domain :
    expandScript 0 [.showCfg true 0 0, .showCfg true 0 0] =
      .op (.render true 0 0) :: expandShow (drawnColour 0) ++ .op (.render true 0 0) :: expandShow (drawnColour 1) :=
  rfl

/-- R19: the triple of RENDER 1, 32, 100 (K26) is observed in the cycle whose inputs carry it, and in no later one. -/
theorem test_observe_colour :
    (observations 2 (present State.reset (.cycle (renderInputs 0xA064#16)))).map Observation.rgb =
      [⟨0#8, 112#8, 128#8⟩, ⟨0#8, 0#8, 0#8⟩] := by
  decide

/-- W4: `D` = 88 with symbols of different lengths. -/
theorem test_duration :
    frameCycles { Params.tiny 1 with t0l := 3, tReset := 5 } [(0, 0xFF0000#24)] = 88 ∧
    frameCycles (Params.tiny 2) [(0, 0x007080#24), (1, 0x007080#24)] = 144 := by
  decide

/-- R243: one tick is not lost with REF8 up to 33 pixels. -/
theorem test_mask_fits_one_tick : maskFitsOneTick (Params.ref8 33) = true ∧ maskFitsOneTick (Params.ref8 34) = false := by
  decide

/-- R95: REF8 gives exactly 375, 875, 750 and 500 ns, and `T1H = 13` at 16 MHz 812.5 ns. -/
theorem test_nanoseconds :
    (let p := Params.ref8 1
     cyclesToNanoseconds p p.t0h = 375 ∧ cyclesToNanoseconds p p.t0l = 875 ∧ cyclesToNanoseconds p p.t1h = 750 ∧
       cyclesToNanoseconds p p.t1l = 500) ∧
    cyclesToNanoseconds (Params.at16MHz 1) (Params.at16MHz 1).t1h = 1625 / 2 := by
  norm_num [cyclesToNanoseconds, clockPeriod, Params.ref8, Params.at16MHz]

/-- R95: REF8 is "all inside both rows"; its 50 us latch interval is too short for the later revisions. -/
theorem test_strip_timing :
    meetsStripTiming (Params.ref8 1) ws2812 = true ∧ meetsStripTiming (Params.ref8 1) ws2812b = true ∧
    meetsStripTiming (Params.ref8 1) ws2812bLater = false := by
  norm_num [meetsStripTiming, within, latchLowNanoseconds, cyclesToNanoseconds, clockPeriod, Params.ref8, ws2812,
    ws2812b, ws2812bLater]

/-! ## Witnesses: for each statement with hypotheses, states and operands that meet them -/

/-- Idle with two pixels, the second stored, DISPLAYED = 1. -/
def idle2 : State := idleState (Params.tiny 2) [(1, 0x102030#24)] true

/-- The same with DISPLAYED = 0. -/
def fresh2 : State := idleState (Params.tiny 2) [(1, 0x102030#24)] false

/-- `fresh2` with a REFRESH presented, once with `cmd_valid` for this one cycle. -/
def refreshing : State := present fresh2 (.cycle (cmdInputs 0x40000000000#44))

/-- Sending P1's pixel, the first cycle of its first bit, a 1 (Q2). -/
def onBit1 : State := seqState 1 p1Pix .high 0#16 0#5 1 0xA512FF#24

/-- The first cycle of its second bit, a 0 (Q5). -/
def onBit0 : State := seqState 1 p1Pix .high 0#16 1#5 0 0x4A25FE#24

/-- The last cycle of its last bit (Q8). -/
def lastCycle : State := seqState 1 p1Pix .low 0#16 23#5 0 0x800000#24

/-- The first cycle of the latch interval (Q9). -/
def latching : State := seqState 1 p1Pix .latch 0#16 23#5 3 0x800000#24

theorem noReset_nil : noReset [] := fun _ h => absurd h (by simp)

theorem inv_onBit1 : Inv onBit1 :=
  ⟨by decide, ⟨by decide, by decide, by decide, by decide, by decide, by decide, by decide, by decide, by decide⟩,
    by decide⟩

theorem inv_onBit0 : Inv onBit0 :=
  ⟨by decide, ⟨by decide, by decide, by decide, by decide, by decide, by decide, by decide, by decide, by decide⟩,
    by decide⟩

theorem inv_refreshing : Inv refreshing :=
  ⟨by decide, ⟨by decide, by decide, by decide, by decide, by decide, by decide, by decide, by decide, by decide⟩,
    by decide⟩

theorem accepts_refreshing : accepts refreshing .refresh := ⟨⟨by decide, by decide, by decide⟩, by decide⟩

theorem witness_DecodeOfEncodeGivesBackTheOperation :
    (Params.ref8 65536).wf = true ∧ Instr.wf (.load 65535 0xFF#8 0#8 1#8) = true ∧
    Instr.wf (.sample 1023 0xFFFFFFFF#32 0#32) = true ∧ Instr.wf (.render true 127 255) = true := by
  decide

theorem witness_ReservedCodesChangeNoState :
    5 ≤ (cmdOp 0x5000012A5FF#44).toNat ∧ 5 ≤ (cmdOp 0xFFFFFFFFFFF#44).toNat := by
  decide

theorem witness_WireWordFollowsByteOrder :
    (pixelBits .grb (pixel 0x12#8 0xA5#8 0xFF#8))[0]? = some true ∧
    (pixelBits .grb (pixel 0x12#8 0xA5#8 0xFE#8))[23]? = some false := by
  decide

theorem witness_LoadStoresOnePixel :
    idle2.led.phase = .idle ∧ 1 < idle2.params.nLeds ∧ idle2.params.nLeds ≤ 2 := by
  decide

theorem witness_FillStoresEveryPixel :
    idle2.led.phase = .idle ∧ 1 < idle2.params.nLeds ∧ idle2.params.nLeds ≤ 2 := by
  decide

theorem witness_InvalidateClearsDisplayed : idle2.led.phase = .idle ∧ idle2.led.displayed = true := by
  decide

theorem witness_RefreshStartsTransmission :
    (idle2.led.phase = .idle ∧ idle2.led.displayed = true) ∧
    (fresh2.led.phase = .idle ∧ fresh2.led.displayed = false ∧ 1 ≤ fresh2.params.nLeds) := by
  decide

theorem witness_CommandPortIsReadOnlyOnAcceptance :
    (acceptsCommand refreshing ∧ ∃ t, step refreshing = .next t) ∧ idleInputs.cmdValid = false ∧
    onBit1.led.phase ≠ .idle :=
  ⟨⟨accepts_refreshing.1, _, rfl⟩, by decide, by decide⟩

theorem witness_CommandWhileBusyHasNoEffect :
    isCommand (.load 0 1#8 2#8 3#8) = true ∧ isCommand .refresh = true ∧ onBit1.led.phase ≠ .idle ∧
    latching.led.phase ≠ .idle := by
  decide

theorem witness_LedOperationsShareNothing :
    (isLedOperation (.fill 1#8 2#8 3#8) = true ∧ ∃ t, exec (.fill 1#8 2#8 3#8) idle2 = .next t) ∧
    (isLedOperation .sym1 = true ∧ ∃ t, exec .sym1 onBit1 = .next t) :=
  ⟨⟨by decide, _, rfl⟩, by decide, _, rfl⟩

theorem witness_LoadIsSeenByTheNextRefresh :
    idle2.led.phase = .idle ∧ 0 < idle2.params.nLeds ∧ 1 < idle2.params.nLeds := by
  decide

theorem witness_SymbolHighPart :
    (onBit1.led.phase = .high ∧ onBit1.led.shift.getLsbD 23 = true ∧ onBit1.led.cnt ≠ 0) ∧
    (onBit0.led.phase = .high ∧ onBit0.led.shift.getLsbD 23 = false ∧ onBit0.led.cnt = 0) := by
  decide

/-- One state for each clause: counting, the next bit at BIT_IDX 22, the next pixel, the end of the frame. -/
theorem witness_SymbolLowPart :
    (let s := seqState 1 p1Pix .low 0#16 1#5 1 0x4A25FE#24
     s.led.phase = .low ∧ s.led.shift.getLsbD 23 = false ∧ s.params.nLeds ≤ 65536 ∧ s.led.cnt ≠ 0) ∧
    (let s := seqState 1 p1Pix .low 0#16 22#5 0 0xC00000#24
     s.led.phase = .low ∧ s.led.shift.getLsbD 23 = true ∧ s.led.cnt = 0 ∧ s.led.bitIdx ≠ 23#5) ∧
    (let s := seqState 2 [] .low 0#16 23#5 0 0#24
     s.led.cnt = 0 ∧ s.led.bitIdx = 23#5 ∧ s.led.ledIdx.toNat + 1 < s.params.nLeds) ∧
    (lastCycle.led.phase = .low ∧ lastCycle.led.shift.getLsbD 23 = true ∧ lastCycle.led.cnt = 0 ∧
      lastCycle.led.bitIdx = 23#5 ∧ lastCycle.led.ledIdx.toNat + 1 = lastCycle.params.nLeds) := by
  decide

theorem witness_LatchCountsDownToIdle :
    (latching.led.phase = .latch ∧ latching.led.cnt ≠ 0) ∧
    (let s := seqState 1 p1Pix .latch 0#16 23#5 0 0x800000#24
     s.led.phase = .latch ∧ s.led.cnt = 0) := by
  decide

theorem witness_SymbolOffTheWireHasNoEffect :
    ¬((onBit1.led.phase = .high ∨ onBit1.led.phase = .low) ∧ onBit1.led.shift.getLsbD 23 = false) ∧
    ¬((idle2.led.phase = .high ∨ idle2.led.phase = .low) ∧ idle2.led.shift.getLsbD 23 = true) ∧
    idle2.led.phase ≠ .latch := by
  decide

theorem witness_SymbolDrivesItsWaveform :
    (Inv onBit1 ∧ onBit1.led.phase = .high ∧ onBit1.led.shift.getLsbD 23 = true ∧
      onBit1.led.cnt = onBit1.params.t1h - 1) ∧
    (Inv onBit0 ∧ onBit0.led.phase = .high ∧ onBit0.led.shift.getLsbD 23 = false ∧
      onBit0.led.cnt = onBit0.params.t0h - 1) :=
  ⟨⟨inv_onBit1, by decide, by decide, by decide⟩, inv_onBit0, by decide, by decide, by decide⟩

theorem witness_LatchDrivesItsWaveform :
    latching.led.phase = .latch ∧ 1 ≤ latching.params.tReset ∧ latching.led.cnt = latching.params.tReset - 1 := by
  decide

/-- The second part: a NOP accepted with DISPLAYED = 1. -/
theorem witness_RefreshSendsExactlyTheFrame :
    (Inv refreshing ∧ accepts refreshing .refresh ∧ refreshing.led.displayed = false ∧
      noReset refreshing.restStimulus) ∧
    (idle2.inputs.rst = false ∧ (∃ t, step idle2 = .next t) ∧ idle2.displayed = true ∧ ¬acceptsClearing idle2) := by
  refine ⟨⟨inv_refreshing, accepts_refreshing, by decide, noReset_nil⟩, by decide, ⟨_, rfl⟩, by decide, ?_⟩
  have h : idle2.inputs.cmdValid = false := by decide
  simp [acceptsClearing, accepts, acceptsCommand, h]

theorem witness_FrameLastsItsSymbols :
    (Params.tiny 1).t0h + (Params.tiny 1).t0l = (Params.tiny 1).t1h + (Params.tiny 1).t1l := by
  decide

/-- The same LedDriver state with and without a command held; then both ways a transmission ends. -/
theorem witness_TransmissionCannotBePreempted :
    (let s' := present onBit1 (.hold 0x20000FFFFFF#44)
     s'.params = onBit1.params ∧ s'.led = onBit1.led ∧ onBit1.led.phase ≠ .idle ∧ onBit1.inputs.rst = false ∧
       s'.inputs.rst = false ∧ ∃ t, step onBit1 = .next t) ∧
    (∃ t, step lastCycle = .next t ∧ lastCycle.irqMask = true ∧ t.irqMask = false) ∧
    ∃ t, step (present onBit1 (.cycle { idleInputs with rst := true })) = .next t ∧ t.irqMask = false :=
  ⟨⟨rfl, rfl, by decide, by decide, by decide, _, rfl⟩, ⟨_, rfl, by decide, by decide⟩, _, rfl, by decide⟩

theorem witness_IrqMaskRisesOnlyOnRefresh :
    (∃ t, step refreshing = .next t ∧ refreshing.irqMask = false ∧ t.irqMask = true) ∧
    ∃ t, step idle2 = .next t ∧ idle2.irqMask = false ∧ t.irqMask = false :=
  ⟨⟨_, rfl, by decide, by decide⟩, _, rfl, by decide, by decide⟩

theorem witness_PixWrittenOnlyByLoadAndFill :
    ∃ t, (present idle2 (.hold 0x20000080400#44)).inputs.rst = false ∧
      step (present idle2 (.hold 0x20000080400#44)) = .next t ∧ t.led.pix ≠ idle2.led.pix :=
  ⟨_, by decide, rfl, by decide⟩

/-- An INVALIDATE accepted with DISPLAYED = 1, and the end of a frame, by all its conditions. -/
theorem witness_DisplayedChangesOnlyAsListed :
    (∃ t, acceptsClearing (present idle2 (.hold 0x30000000000#44)) ∧
      step (present idle2 (.hold 0x30000000000#44)) = .next t ∧ idle2.displayed = true ∧ t.displayed = false) ∧
    (lastCycle.led.phase = .low ∧ lastCycle.led.cnt = 0 ∧ lastCycle.led.bitIdx = 23#5 ∧
      lastCycle.led.ledIdx.toNat = lastCycle.params.nLeds - 1) ∧
    ∃ t, lastCycle.inputs.rst = false ∧ step lastCycle = .next t ∧ lastCycle.displayed = false ∧ t.displayed = true :=
  ⟨⟨_, .inr (.inr ⟨⟨by decide, by decide, by decide⟩, by decide⟩), rfl, by decide, by decide⟩, by decide,
    _, by decide, rfl, by decide, by decide⟩

/-- Two cycles from `idle2` with a REFRESH held in the first. -/
theorem witness_NoFrameWithoutAChange :
    let s := present idle2 (.hold 0x40000000000#44)
    s.displayed = true ∧ s.irqMask = false ∧ (states 2 s).length = 2 ∧
      ∀ t ∈ states 2 s, t.inputs.rst = false ∧ ¬acceptsClearing t := by
  refine ⟨by decide, by decide, by decide, ?_⟩
  have h1 : decodeCmd (present idle2 (.hold 0x40000000000#44)).inputs.cmd = .refresh := by decide
  have h2 : idle2.inputs.cmdValid = false := by decide
  have h : states 2 (present idle2 (.hold 0x40000000000#44)) = [present idle2 (.hold 0x40000000000#44), idle2] := by
    rfl
  rw [h]
  intro t ht
  rcases List.mem_cons.mp ht with rfl | ht
  · exact ⟨by decide, by simp [acceptsClearing, accepts, h1]⟩
  · rw [List.mem_singleton.mp ht]
    exact ⟨by decide, by simp [acceptsClearing, accepts, acceptsCommand, h2]⟩

theorem witness_FramesAreSeparated :
    ∃ t, lastCycle.params.wf = true ∧ noReset lastCycle.stimulus ∧ lastCycle.irqMask = true ∧
      step lastCycle = .next t ∧ t.irqMask = false :=
  ⟨_, by decide, noReset_nil, by decide, rfl, by decide⟩

theorem witness_ReadyWithinOneFrame : Inv onBit1 ∧ noReset onBit1.stimulus := ⟨inv_onBit1, noReset_nil⟩

/-- `since_touch` 0 and 499 (A10, A11). -/
theorem witness_TouchGuardSuppressesSample :
    (1250#32 - 1250#32).toNat < (Params.tiny 1).touchGuardMs ∧
    (1749#32 - 1250#32).toNat < (Params.tiny 1).touchGuardMs := by
  decide

/-- `since_touch` 500 (A12), the largest reading. -/
theorem witness_AverageIsUpdatedExactly :
    (Params.tiny 1).wf = true ∧ 1023 < 1024 ∧ (Params.tiny 1).touchGuardMs ≤ (1750#32 - 1250#32).toNat := by
  decide

/-- A3 and A8 at the threshold, A2 one below it. -/
theorem witness_DetectedSampleEntersFirstClap :
    (let s := clapAt .noClap 0#32 0#26
     s.clap.clapState = .noClap ∧ s.params.touchGuardMs ≤ (1000#32 - 0#32).toNat ∧
       300 = s.clap.acc.toNat - s.clap.acc.toNat / 2 ^ s.params.avgShift + 300 * 2 ^ (16 - s.params.avgShift) ∧
       s.params.clapThreshold ≤ 300 - 300 / 2 ^ 16 ∧ 299 < 299 / 2 ^ 16 + s.params.clapThreshold ∧
       299 / 2 ^ 16 < 299 + s.params.clapThreshold) ∧
    (let s := clapAt .noClap 0#32 32768000#26
     32767699 = s.clap.acc.toNat - s.clap.acc.toNat / 2 ^ s.params.avgShift + 199 * 2 ^ (16 - s.params.avgShift) ∧
       s.params.clapThreshold ≤ 32767699 / 2 ^ 16 - 199) := by
  decide

/-- The average of each clause is 1600, the reading 800; `elapsed` 199, 200, 699 and 700 (A13, A14, A16, A17), and a
quiet reading in the window (A15). -/
theorem witness_FirstClapWaitsAdvancesOrTimesOut :
    let s := clapAt .firstClap 1100#32 800#26
    s.params.wf = true ∧ s.clap.clapState = .firstClap ∧ s.params.touchGuardMs ≤ (1299#32 - 0#32).toNat ∧
    1600 = s.clap.acc.toNat - s.clap.acc.toNat / 2 ^ s.params.avgShift + 800 * 2 ^ (16 - s.params.avgShift) ∧
    s.params.clapThreshold ≤ 800 - 1600 / 2 ^ 16 ∧
    (1299#32 - s.clap.lastClapTick).toNat < s.params.interMin ∧
    s.params.interMin ≤ (1300#32 - s.clap.lastClapTick).toNat ∧
    (1799#32 - s.clap.lastClapTick).toNat < s.params.interMax ∧
    s.params.interMax ≤ (1800#32 - s.clap.lastClapTick).toNat ∧
    800 = s.clap.acc.toNat - s.clap.acc.toNat / 2 ^ s.params.avgShift + 0 * 2 ^ (16 - s.params.avgShift) ∧
    0 < 800 / 2 ^ 16 + s.params.clapThreshold ∧ 800 / 2 ^ 16 < 0 + s.params.clapThreshold := by
  decide

/-- `elapsed` 101 and 100 (A19, A18). -/
theorem witness_DoubleClapConfirms :
    let s := clapAt .doubleClap 1400#32 1600#26
    s.params.wf = true ∧ s.clap.clapState = .doubleClap ∧ s.params.touchGuardMs ≤ (1500#32 - 0#32).toNat ∧
    1600 = s.clap.acc.toNat - s.clap.acc.toNat / 2 ^ s.params.avgShift + 0 * 2 ^ (16 - s.params.avgShift) ∧
    s.params.clapToTouchMin < (1501#32 - s.clap.lastClapTick).toNat ∧
    (1500#32 - s.clap.lastClapTick).toNat ≤ s.params.clapToTouchMin := by
  decide

/-- A19 strobed in a cycle, and a cycle without a strobe. -/
theorem witness_EventIsAOneCyclePulse :
    (∃ t, (present (clapAt .doubleClap 1400#32 1600#26)
        (.cycle { idleInputs with sampleValid := true, tick := 1501#32 })).inputs.rst = false ∧
      step (present (clapAt .doubleClap 1400#32 1600#26)
        (.cycle { idleInputs with sampleValid := true, tick := 1501#32 })) = .next t ∧ t.event = true) ∧
    ∃ t, idle2.inputs.rst = false ∧ idle2.inputs.sampleValid = false ∧ step idle2 = .next t ∧ t.event = false :=
  ⟨⟨_, by decide, rfl, by decide⟩, _, by decide, by decide, rfl, by decide⟩

/-- A14 strobed in a cycle. -/
theorem witness_DoubleClapNeedsAFirstClapInTheWindow :
    ∃ t, step (present (clapAt .firstClap 1100#32 800#26)
        (.cycle { idleInputs with sampleValid := true, reading := 800#10, tick := 1300#32 })) = .next t ∧
      t.clap.clapState = .doubleClap :=
  ⟨_, rfl, by decide⟩

theorem witness_SampleIsInvariantUnderTickShift :
    ∃ t, exec (.sample 800 1300#32 0#32) (clapAt .firstClap 1100#32 800#26) = .next t :=
  ⟨_, rfl⟩

/-- Both ends of the domain, and one hue of each sector. -/
theorem witness_RenderComputesTheColour :
    1 = min (max (1 ^ 2 / 16) 1) 255 ∧ 255 = min (max (64 ^ 2 / 16) 1) 255 ∧ 126 = min (max (45 ^ 2 / 16) 1) 255 ∧
    132 = min (max (46 ^ 2 / 16) 1) 255 ∧ 31 / 32 = 0 ∧ 32 / 32 = 1 ∧ 95 / 32 = 2 ∧ 96 / 32 = 3 ∧ 159 / 32 = 4 ∧
    160 / 32 = 5 ∧ 191 / 32 = 5 := by
  decide

/-- Brightness 1, 45 and 46 (either side of v = 127.5) and 64. -/
theorem witness_RenderExtremes :
    (∃ t, exec (.render true 1 0) State.reset = .next t) ∧ (∃ t, exec (.render true 64 191) State.reset = .next t) ∧
    lightness 45 ≤ 127 ∧ ¬lightness 46 ≤ 127 :=
  ⟨⟨_, rfl⟩, ⟨_, rfl⟩, by decide, by decide⟩

theorem witness_RenderOutsideItsDomainRuns :
    (0 = 0 ∨ 64 < 0 ∨ 191 < 0) ∧ (65 = 0 ∨ 64 < 65 ∨ 191 < 0) ∧ (8 = 0 ∨ 64 < 8 ∨ 191 < 192) := by
  decide

/-- A RENDER in a cycle without and in one with `rst = 1`, and one with `on = 0`. -/
theorem witness_ColourOutputsAreRenderOfTheInputs :
    (∃ t, step (present State.reset (.cycle (renderInputs 0xA064#16))) = .next t ∧ t.rgb = ⟨0#8, 112#8, 128#8⟩) ∧
    (let s := present State.reset (.cycle { renderInputs 0xA064#16 with rst := true })
     s.inputs.rst = true ∧ (observe s).rgb = ⟨0#8, 112#8, 128#8⟩) ∧
    State.reset.inputs.on = false :=
  ⟨⟨_, rfl, by decide⟩, by decide, by decide⟩

/-- In the domain and out of it. -/
theorem witness_ShowCfgShowsTheRenderedTriple :
    (∃ t, exec (.render true 32 100) State.reset = .next t) ∧ ∃ t, exec (.render true 0 192) State.reset = .next t :=
  ⟨⟨_, rfl⟩, _, rfl⟩

/-- One state for each clause. -/
theorem witness_StepRunsThePresentedOperations :
    (refreshing.inputs.rst = false ∧ refreshing.led.phase = .idle ∧ refreshing.inputs.cmdValid = true) ∧
    (idle2.inputs.rst = false ∧ idle2.led.phase = .idle ∧ idle2.inputs.cmdValid = false) ∧
    (onBit1.inputs.rst = false ∧ onBit1.led.phase = .high) ∧ lastCycle.led.phase = .low ∧
    (latching.inputs.rst = false ∧ latching.led.phase = .latch) := by
  decide

theorem witness_HeldCommandWaitsForAcceptance :
    ((∃ t, step (present latching (.hold 0x40000000000#44)) = .next t) ∧ latching.led.phase ≠ .idle) ∧
    ((∃ t, step (present idle2 (.hold 0x40000000000#44)) = .next t) ∧ idle2.led.phase = .idle) :=
  ⟨⟨⟨_, rfl⟩, by decide⟩, ⟨_, rfl⟩, by decide⟩

theorem witness_ResetEdgeResetsEveryElement :
    (present onBit1 (.cycle { idleInputs with rst := true })).inputs.rst = true := by
  decide

theorem witness_ReadyTresetCyclesAfterReset :
    State.reset.params.wf = true ∧ State.reset.led = Led.reset State.reset.params ∧ noReset State.reset.stimulus :=
  ⟨by decide, rfl, noReset_nil⟩

theorem witness_ResetStateMeetsTheInvariant : (Params.tiny 1).wf = true ∧ (Params.ref8 65536).wf = true := by
  decide

theorem witness_StepKeepsTheInvariant : Inv onBit1 ∧ ∃ t, step onBit1 = .next t := ⟨inv_onBit1, _, rfl⟩

theorem witness_StepNeverStops : Inv onBit0 ∧ Inv refreshing := ⟨inv_onBit0, inv_refreshing⟩

theorem witness_ParametersAreFixedAndNothingIsRefused : ∃ t, step State.reset = .next t := ⟨_, rfl⟩

theorem witness_OutputsAreConsistent : onBit1.dout = true ∧ lastCycle.irqMask = true := by
  decide

/-- The same ClapDetector and ColorEngine with LedDriver idle and latching; the colour inputs of the first with
`on = 0`, of the last in the domain. -/
theorem witness_SubBlocksActIndependently :
    let s' := { idle2 with led := { latching.led with pix := [] } }
    s'.params = idle2.params ∧ idle2.inputs.rst = false ∧ s'.inputs.rst = false ∧ s'.clap = idle2.clap ∧
      idle2.inputs.on = false ∧ s'.inputs.on = idle2.inputs.on ∧ (∃ t, step idle2 = .next t) ∧ (∃ t, step s' = .next t) ∧
      let i := (present idle2 (.cycle (renderInputs 0xA064#16))).inputs
      i.rst = false ∧ 1 ≤ i.brightness.toNat ∧ i.brightness.toNat ≤ 64 ∧ i.hue.toNat ≤ 191 :=
  ⟨rfl, by decide, by decide, rfl, by decide, by decide, ⟨_, rfl⟩, ⟨_, rfl⟩, by decide⟩

end Sys2Proof.Tests
end

section
/-! The scope of each operation (00_scope.md R4, R6): a LedDriver operation acts on LedDriver alone and SAMPLE on
ClapDetector alone, and a step is the operations its cycle presents, one after the other. -/

namespace Sys2Proof.Machine

/-! ## Operations as effects on one sub-block -/

/-- `exec_eq_onLed` with the class of operations the statements name. -/
theorem exec_ledOperation {i : Instr} (h : isLedOperation i = true) (s : State) :
    exec i s = onLed s (ledEffect i) := by
  refine exec_eq_onLed i s ⟨?_, ?_⟩
  · rintro a b c rfl
    cases h
  · rintro a b c rfl
    cases h

theorem exec_sample (reading : Nat) (tick touch : Tick) (s : State) :
    exec (.sample reading tick touch) s =
      .next { s with clap := clapSample reading tick touch s.params s.clap } := rfl

/-- An effect on LedDriver that completes does so, with the same LedDriver state, in every state with the same
parameters and LedDriver. -/
theorem onLed_next_congr {s t s' : State} {f : Params → Led → Except Fault Led} (h : onLed s f = .next t)
    (hp : s'.params = s.params) (hl : s'.led = s.led) : onLed s' f = .next { s' with led := t.led } := by
  obtain ⟨l, hf, rfl⟩ := (onLed_eq_next s t f).mp h
  exact (onLed_eq_next s' _ f).mpr ⟨l, by rw [hp, hl]; exact hf, rfl⟩

/-! ## The operation LedDriver performs -/

theorem ledOperation_idle_command {i : Inputs} {l : Led} (hi : l.phase = .idle) (hv : i.cmdValid = true) :
    ledOperation i l = some (decodeCmd i.cmd) := by
  simp only [ledOperation, hi, hv, if_true]

theorem ledOperation_idle_none {i : Inputs} {l : Led} (hi : l.phase = .idle) (hv : i.cmdValid = false) :
    ledOperation i l = none := by
  simp [ledOperation, hi, hv]

theorem ledOperation_symbol {i : Inputs} {l : Led} (h : l.phase = .high ∨ l.phase = .low) :
    ledOperation i l = some (if wireBit l.shift then .sym1 else .sym0) := by
  rcases h with h | h <;> simp only [ledOperation, h]

theorem ledOperation_latch {i : Inputs} {l : Led} (h : l.phase = .latch) : ledOperation i l = some .symLatch := by
  simp only [ledOperation, h]

theorem ledCycle_some {run : Instr → State → Result} {i : Inputs} {s : State} {op : Instr}
    (h : ledOperation i s.led = some op) : ledCycle run i s = run op s := by
  simp only [ledCycle, h]

theorem ledCycle_none {run : Instr → State → Result} {i : Inputs} {s : State}
    (h : ledOperation i s.led = none) : ledCycle run i s = .next s := by
  simp only [ledCycle, h]

/-! ## The parts of a cycle as executed operations -/

theorem clapCycle_exec (i : Inputs) (s : State) :
    clapCycle exec i s =
      if i.sampleValid then exec (.sample i.reading.toNat i.tick i.lastTouchTick) s
      else .next { s with clap := { s.clap with event := false } } := by
  rw [clapCycle, sampleOperation_eq]
  rfl

theorem colourCycle_exec (i : Inputs) :
    colourCycle exec i = exec (.render i.on i.brightness.toNat i.hue.toNat) := by
  funext s
  rw [colourCycle, renderOperation_eq]

/-- A step with `rst = 0`: LedDriver's part of the cycle, then the operations of the other two sub-blocks. -/
theorem step_eq_andThen {s : State} (hr : s.inputs.rst = false) :
    step s = andThen (ledCycle exec s.inputs s.advance) fun v =>
      andThen (if s.inputs.sampleValid then
          exec (.sample s.inputs.reading.toNat s.inputs.tick s.inputs.lastTouchTick) v
        else .next { v with clap := { v.clap with event := false } })
      (exec (.render s.inputs.on s.inputs.brightness.toNat s.inputs.hue.toNat)) := by
  simp only [step, cycle, hr, clapCycle_exec, colourCycle_exec, Bool.false_eq_true, if_false]

/-! ## The statements -/

/-- Settles O13: a LedDriver operation is `onLed` of its effect, which replaces the field `led` by a function of the
parameters and LedDriver. -/
theorem ledOperationsShareNothing : Obligations.LedOperationsShareNothing := by
  intro i s t hi h
  rw [exec_ledOperation hi] at h
  obtain ⟨l, -, rfl⟩ := (onLed_eq_next s t (ledEffect i)).mp h
  refine ⟨rfl, rfl, rfl, rfl, rfl, fun c q col n => ?_⟩
  rw [exec_ledOperation hi]
  exact onLed_next_congr h rfl rfl

/-- Settles O35: the ClapDetector state SAMPLE leaves is a function of the parameters, ClapDetector and the operands. -/
theorem sampleSharesNothing : Obligations.SampleSharesNothing := fun s reading tick touch =>
  ⟨clapSample reading tick touch s.params s.clap, exec_sample reading tick touch s,
    fun _ _ _ _ => exec_sample reading tick touch _⟩

/-- Settles O44: `step_eq_andThen`, with LedDriver's part read off the phase and the command port. -/
theorem stepRunsThePresentedOperations : Obligations.StepRunsThePresentedOperations := by
  rintro s u rfl hr rest hrest
  have hstep {o : Result} (h : ledCycle exec s.inputs s.advance = o) : step s = andThen o rest := by
    rw [step_eq_andThen hr, h, hrest]
  refine ⟨fun hi hv => ?command, fun hi hv => ?quiet, fun hp => ?symbol, fun hp => ?latch⟩
  case command => exact hstep (ledCycle_some (ledOperation_idle_command hi hv))
  case quiet => exact (hstep (ledCycle_none (ledOperation_idle_none hi hv))).trans (andThen_next _ rest)
  case symbol => exact hstep (ledCycle_some (ledOperation_symbol hp))
  case latch => exact hstep (ledCycle_some (ledOperation_latch hp))

end Sys2Proof.Machine
end

section
/-! What one cycle leaves in each part of the state: the parameters and the colour outputs from every cycle, LedDriver
while PHASE is not IDLE, ClapDetector with and without a strobe. -/

namespace Sys2Proof.Machine

/-! ## The step -/

/-- What every step leaves, with `rst = 1` too: the parameters (R37), the queue moved on, and RENDER of the cycle's
inputs (R43). -/
theorem step_next_frame {s t : State} (h : step s = .next t) :
    t.params = s.params ∧ t.stimulus = s.restStimulus ∧ t.rgb = s.colourOutput ∧ t.draws = s.draws + s.colourDraws := by
  cases hr : s.inputs.rst
  case true =>
    rw [step_reset s hr] at h
    cases h
    exact ⟨rfl, rfl, rfl, rfl⟩
  case false =>
    obtain ⟨l, -, rfl⟩ := (step_next s t hr).mp h
    exact ⟨rfl, rfl, rfl, rfl⟩

theorem step_ne_refused (s : State) (r : Refusal) : step s ≠ .refused r := by
  rw [step_eq]
  split
  · simp
  · split <;> simp

/-! ## LedDriver while PHASE is not IDLE -/

/-- The last cycle of the last bit of the last pixel (R172). -/
def Led.AtFrameEnd (p : Params) (l : Led) : Prop :=
  l.phase = .low ∧ l.cnt = 0 ∧ l.bitIdx = 23#5 ∧ l.ledIdx.toNat = p.nLeds - 1

/-- Everything a cycle with PHASE other than IDLE can do when it completes (R167 to R174). -/
theorem busyNext_cases {p : Params} {l l' : Led} (hb : l.phase ≠ .idle) (h : busyNext p l = .ok l') :
    (l.cnt ≠ 0 ∧ l' = { l with cnt := l.cnt - 1 }) ∨
    (l.phase = .high ∧ l' = { l with phase := .low, cnt := tl p (wireBit l.shift) - 1 }) ∨
    (l.phase = .low ∧ l.cnt = 0 ∧ afterSymbol p l = .ok l') ∨
    (l.phase = .latch ∧ l' = { l with phase := .idle }) := by
  cases hp : l.phase <;> simp only [busyNext, hp] at h
  case idle => exact absurd hp hb
  case high =>
    split at h
    · exact .inl ⟨‹_›, (Except.ok.inj h).symm⟩
    · exact .inr (.inl ⟨rfl, (Except.ok.inj h).symm⟩)
  case low =>
    split at h
    · exact .inl ⟨‹_›, (Except.ok.inj h).symm⟩
    · exact .inr (.inr (.inl ⟨rfl, by omega, h⟩))
  case latch =>
    split at h
    · exact .inl ⟨‹_›, (Except.ok.inj h).symm⟩
    · exact .inr (.inr (.inr ⟨rfl, (Except.ok.inj h).symm⟩))

theorem busyNext_frameEnd {p : Params} {l : Led} (h : l.AtFrameEnd p) : busyNext p l = .ok (endTransmission p l) := by
  obtain ⟨hp, hc, hb, hl⟩ := h
  simp [busyNext, afterSymbol, hp, hc, hb, hl]

/-- One cycle of the latch interval (R173, R174). -/
theorem busyNext_latch {p : Params} {l : Led} (hp : l.phase = .latch) :
    busyNext p l = .ok (if l.cnt ≠ 0 then { l with cnt := l.cnt - 1 } else { l with phase := .idle }) := by
  cases l
  cases hp
  simp only [busyNext]
  split <;> rfl

/-- PIX is frozen while PHASE is not IDLE (R32). -/
theorem busyNext_pix {p : Params} {l l' : Led} (hb : l.phase ≠ .idle) (h : busyNext p l = .ok l') : l'.pix = l.pix := by
  rcases busyNext_cases hb h with ⟨-, rfl⟩ | ⟨-, rfl⟩ | ⟨-, -, h⟩ | ⟨-, rfl⟩
  · rfl
  · rfl
  · rcases afterSymbol_cases h with ⟨-, rfl⟩ | ⟨-, -, -, rfl⟩ | ⟨-, -, rfl⟩ <;> rfl
  · rfl

/-- While PHASE is not IDLE, DISPLAYED changes at the end of a frame only (R172). -/
theorem busyNext_displayed {p : Params} {l l' : Led} (hb : l.phase ≠ .idle) (h : busyNext p l = .ok l') :
    l'.displayed = l.displayed ∨ l.AtFrameEnd p := by
  rcases busyNext_cases hb h with ⟨-, rfl⟩ | ⟨-, rfl⟩ | ⟨hp, hc, h⟩ | ⟨-, rfl⟩
  · exact .inl rfl
  · exact .inl rfl
  · rcases afterSymbol_cases h with ⟨-, rfl⟩ | ⟨-, -, -, rfl⟩ | ⟨hbit, hl, -⟩
    · exact .inl rfl
    · exact .inl rfl
    · exact .inr ⟨hp, hc, hbit, hl⟩
  · exact .inl rfl

/-! ## LedDriver in IDLE -/

theorem acceptsCommand.idle {s : State} (h : acceptsCommand s) : s.led.phase = .idle := by
  obtain ⟨-, hready, -⟩ := h
  exact (cmdReady_iff s).mp hready

theorem acceptsClearing.idle {s : State} (h : acceptsClearing s) : s.led.phase = .idle := by
  rcases h with ⟨_, _, _, _, h, -⟩ | ⟨_, _, _, h⟩ | h <;> exact h.1.idle

/-- In IDLE, DISPLAYED is cleared by a clearing command and kept in every other cycle (R26, R34). -/
theorem ledNext_idle_displayed {s : State} {l : Led} (hi : s.led.phase = .idle) (hr : s.inputs.rst = false)
    (hl : ledNext s.inputs s.params s.led = .ok l) :
    (acceptsClearing s ∧ l.displayed = false) ∨ (¬acceptsClearing s ∧ l.displayed = s.led.displayed) := by
  rcases ledNext_idle_cases hi hr hl with ⟨rfl, hkeep⟩ | ⟨idx, r, g, b, hacc, hidx, rfl⟩ | ⟨r, g, b, hacc, rfl⟩ |
    ⟨hacc, rfl⟩ | ⟨hacc, hd, -, rfl⟩
  · refine .inr ⟨?_, rfl⟩
    rintro (⟨idx, r, g, b, hacc, hidx⟩ | ⟨r, g, b, hacc⟩ | hacc)
    · have hout : s.params.nLeds ≤ idx := by simpa using hkeep _ hacc
      omega
    · simpa using hkeep _ hacc
    · simpa using hkeep _ hacc
  · exact .inl ⟨.inl ⟨idx, r, g, b, hacc, hidx⟩, rfl⟩
  · exact .inl ⟨.inr (.inl ⟨r, g, b, hacc⟩), rfl⟩
  · exact .inl ⟨.inr (.inr hacc), rfl⟩
  · refine .inr ⟨?_, rfl⟩
    rintro (⟨_, _, _, _, hacc', -⟩ | ⟨_, _, _, hacc'⟩ | hacc') <;>
      exact Instr.noConfusion (hacc.2.symm.trans hacc'.2)

/-! ## ClapDetector -/

/-- Everything ClapDetector can do in a cycle with `rst = 0`: no strobe (R112), the guard (R113), a transition (R114 to
R121). -/
theorem clapNext_cases (i : Inputs) (p : Params) (c : Clap) :
    (i.sampleValid = false ∧ clapNext i p c = c.setEvent false) ∨
    (i.sampleValid = true ∧ (i.tick - i.lastTouchTick).toNat < p.touchGuardMs ∧
      clapNext i p c = ({ c with clapState := .noClap } : Clap).setEvent false) ∨
    (i.sampleValid = true ∧ p.touchGuardMs ≤ (i.tick - i.lastTouchTick).toNat ∧
      ∃ found acc, clapNext i p c = clapTransition p found i.tick { c with acc := acc }) := by
  unfold clapNext
  cases i.sampleValid
  case false => exact .inl ⟨rfl, rfl⟩
  case true =>
    rcases Nat.lt_or_ge (i.tick - i.lastTouchTick).toNat p.touchGuardMs with hg | hg
    · exact .inr (.inl ⟨rfl, hg, clapSample_guarded hg⟩)
    · exact .inr (.inr ⟨rfl, hg, _, _, clapSample_unguarded hg⟩)

/-- R39 after every cycle with `rst = 0`. -/
theorem clapNext_event (i : Inputs) (p : Params) (c : Clap) (h : (clapNext i p c).event = true) :
    (clapNext i p c).clapState = .noClap := by
  rcases clapNext_cases i p c with ⟨-, hc⟩ | ⟨-, -, hc⟩ | ⟨-, -, found, acc, hc⟩ <;> rw [hc] at h ⊢
  · simp at h
  · rfl
  · exact clapTransition_event _ _ _ _ h

/-- A transition into DoubleClap leaves FirstClap inside the window and records the tick (R118). -/
theorem clapTransition_doubleClap {p : Params} {found : Bool} {tick : Tick} {c : Clap}
    (hd : (clapTransition p found tick c).clapState = .doubleClap) (hne : c.clapState ≠ .doubleClap) :
    c.clapState = .firstClap ∧ p.interMin ≤ tickDiff tick c.lastClapTick ∧
      tickDiff tick c.lastClapTick < p.interMax ∧ (clapTransition p found tick c).lastClapTick = tick := by
  unfold clapTransition at hd ⊢
  cases hc : c.clapState <;> simp only [hc] at hd ⊢
  case noClap => split at hd <;> simp [hc] at hd
  case firstClap =>
    split at hd
    · simp [hc] at hd
    · rename_i hmin
      split at hd
      · rename_i hmax
        split at hd
        · rename_i hfound
          refine ⟨trivial, Nat.not_lt.mp hmin, hmax, ?_⟩
          rw [if_neg hmin, if_pos hmax, if_pos hfound]
          rfl
        · simp [hc] at hd
      · simp at hd
  case doubleClap => exact absurd hc hne

end Sys2Proof.Machine
end

section
/-! The invariant of R38 and R39: LedDriver's part by what a cycle can do, then the whole step. -/

namespace Sys2Proof.Machine

variable {p : Params} {l l' : Led}

/-- With no symbol on the wire the invariant speaks of the buffer and the latch count only. -/
theorem Led.Inv.of_offWire (hmem : Memory.wf l.pix = true) (hidx : ∀ c ∈ l.pix, c.1 < p.nLeds)
    (hoff : ¬(l.phase = .high ∨ l.phase = .low)) (hlatch : l.phase = .latch → l.cnt ≤ p.tReset - 1) :
    Led.Inv p l where
  memory := hmem
  indices := hidx
  ledIdx h := absurd h hoff
  bitIdx h := absurd h hoff
  shift h := absurd h hoff
  cntHigh h := absurd (.inl h) hoff
  cntLow h := absurd (.inr h) hoff
  cntLatch := hlatch
  notDisplayed h := absurd h hoff

/-- The first cycle of a symbol, with its bit of its pixel in SHIFT. -/
theorem Led.Inv.startSymbol {w : BitVec 24} (hmem : Memory.wf l.pix = true) (hidx : ∀ c ∈ l.pix, c.1 < p.nLeds)
    (hled : l.ledIdx.toNat < p.nLeds) (hbit : l.bitIdx.toNat ≤ 23)
    (hw : w = wire p.byteOrder (Memory.read l.pix l.ledIdx.toNat) <<< l.bitIdx.toNat) (hd : l.displayed = false) :
    Led.Inv p (startSymbol p l w) where
  memory := hmem
  indices := hidx
  ledIdx _ := hled
  bitIdx _ := hbit
  shift _ := hw
  cntHigh _ := le_rfl
  cntLow h := by simp at h
  cntLatch h := by simp at h
  notDisplayed _ := hd

theorem Led.inv_reset (p : Params) : Led.Inv p (Led.reset p) :=
  .of_offWire Memory.wf_nil (by simp [Led.reset]) (by simp [Led.reset]) fun _ => le_rfl

theorem Led.Inv.countDown (h : Led.Inv p l) : Led.Inv p { l with cnt := l.cnt - 1 } :=
  { h with
    cntHigh := fun hp => (Nat.sub_le ..).trans (h.cntHigh hp)
    cntLow := fun hp => (Nat.sub_le ..).trans (h.cntLow hp)
    cntLatch := fun hp => (Nat.sub_le ..).trans (h.cntLatch hp) }

theorem Led.Inv.lowPart (h : Led.Inv p l) (hp : l.phase = .high) :
    Led.Inv p { l with phase := .low, cnt := tl p (wireBit l.shift) - 1 } where
  memory := h.memory
  indices := h.indices
  ledIdx _ := h.ledIdx (.inl hp)
  bitIdx _ := h.bitIdx (.inl hp)
  shift _ := h.shift (.inl hp)
  cntHigh := nofun
  cntLow _ := le_rfl
  cntLatch := nofun
  notDisplayed _ := h.notDisplayed (.inl hp)

/-- The next bit (R170), the next pixel (R171) and the end of the frame (R172) keep the invariant. The indices do not
wrap: BIT_IDX is below 23 before the next bit, and the next LED_IDX is below `N_LEDS ≤ 65536`. -/
theorem afterSymbol_inv (hw : p.wf = true) (h : Led.Inv p l) (hp : l.phase = .low) (ha : afterSymbol p l = .ok l') :
    Led.Inv p l' := by
  have hled := h.ledIdx (.inr hp)
  have hbit := h.bitIdx (.inr hp)
  have hd := h.notDisplayed (.inr hp)
  rcases afterSymbol_cases ha with ⟨hb, rfl⟩ | ⟨-, -, hn, rfl⟩ | ⟨-, -, rfl⟩
  case inl =>
    have hb' : l.bitIdx.toNat ≠ 23 := fun he => hb (BitVec.eq_of_toNat_eq he)
    have hnext : (l.bitIdx + 1#5).toNat = l.bitIdx.toNat + 1 := by
      rw [BitVec.toNat_add]
      exact Nat.mod_eq_of_lt (by simp only [BitVec.toNat_ofNat]; omega)
    refine .startSymbol h.memory h.indices hled ?_ ?_ hd
    · simp only [hnext]
      omega
    · simp only [hnext]
      rw [h.shift (.inr hp), BitVec.shiftLeft_add]
  case inr.inl =>
    have hmax := Params.wf_facts hw
    have hnext : (BitVec.ofNat 16 (l.ledIdx.toNat + 1)).toNat = l.ledIdx.toNat + 1 := by
      rw [BitVec.toNat_ofNat]
      exact Nat.mod_eq_of_lt (by omega)
    refine .startSymbol h.memory h.indices ?_ (by simp) ?_ hd
    · simpa only [hnext] using hn
    · simp only [hnext, BitVec.toNat_ofNat, Nat.zero_mod, BitVec.shiftLeft_zero]
  case inr.inr =>
    exact .of_offWire h.memory h.indices (by simp) fun _ => le_rfl

theorem busyNext_inv (hw : p.wf = true) (h : Led.Inv p l) (hb : l.phase ≠ .idle) (hn : busyNext p l = .ok l') :
    Led.Inv p l' := by
  rcases busyNext_cases hb hn with ⟨-, rfl⟩ | ⟨hp, rfl⟩ | ⟨hp, -, ha⟩ | ⟨-, rfl⟩
  · exact h.countDown
  · exact h.lowPart hp
  · exact afterSymbol_inv hw h hp ha
  · exact .of_offWire h.memory h.indices (by simp) nofun

/-- LedDriver in IDLE with a buffer in canonical form that lists implemented indices only. -/
theorem Led.Inv.of_idle (hmem : Memory.wf l.pix = true) (hidx : ∀ c ∈ l.pix, c.1 < p.nLeds) (hi : l.phase = .idle) :
    Led.Inv p l :=
  .of_offWire hmem hidx (by simp [hi]) (by simp [hi])

theorem ledNext_idle_inv {s : State} (h : Led.Inv s.params s.led) (hi : s.led.phase = .idle)
    (hr : s.inputs.rst = false) (hl : ledNext s.inputs s.params s.led = .ok l) : Led.Inv s.params l := by
  rcases ledNext_idle_cases hi hr hl with ⟨rfl, -⟩ | ⟨idx, r, g, b, -, hidx, rfl⟩ | ⟨r, g, b, -, rfl⟩ | ⟨-, rfl⟩ |
    ⟨-, hd, hn, rfl⟩
  · exact h
  · refine .of_idle (Memory.wf_write _ _ _ h.memory) (fun c hc => ?_) hi
    rcases Memory.mem_write _ _ _ c hc with rfl | hc
    · exact hidx
    · exact h.indices c hc
  · refine .of_idle (Memory.wf_fill _ _ _ h.memory) (fun c hc => ?_) hi
    exact (Memory.mem_fill _ _ _ c hc).elim id (h.indices c)
  · exact .of_idle h.memory h.indices hi
  · exact .startSymbol h.memory h.indices hn (by simp) (by simp) hd

theorem ledNext_inv {s : State} (h : Inv s) (hr : s.inputs.rst = false)
    (hl : ledNext s.inputs s.params s.led = .ok l) : Led.Inv s.params l := by
  by_cases hi : s.led.phase = .idle
  · exact ledNext_idle_inv h.led hi hr hl
  · rw [ledNext_busy _ _ _ hi] at hl
    exact busyNext_inv h.params h.led hi hl

end Sys2Proof.Machine

namespace Sys2Proof.Machine

/-- Settles O50: the reset edge gives the reset values; else LedDriver keeps its part by `ledNext_inv` and
ClapDetector by `clapNext_event`, and no step writes the parameters. -/
theorem stepKeepsTheInvariant : Obligations.StepKeepsTheInvariant := by
  intro s t h ht
  cases hr : s.inputs.rst
  case true =>
    rw [step_reset s hr] at ht
    cases ht
    exact ⟨h.params, Led.inv_reset s.params, nofun⟩
  case false =>
    obtain ⟨l, hl, rfl⟩ := (step_next s t hr).mp ht
    exact ⟨h.params, ledNext_inv (s := s) h hr hl, clapNext_event s.inputs s.params s.clap⟩

/-- Settles O49, by LedDriver's reset values. -/
theorem resetStateMeetsTheInvariant : Obligations.ResetStateMeetsTheInvariant := by
  have hreset (p : Params) (hp : p.wf = true) : Inv (State.resetWith p) := ⟨hp, Led.inv_reset p, nofun⟩
  exact ⟨hreset, hreset (Params.ref8 3) (by decide)⟩

end Sys2Proof.Machine
end

section
/-! What a step may do to PIX, DISPLAYED and CLAP_STATE, and what it never does (10_state.md R20, R26, R27, R37). -/

namespace Sys2Proof.Machine

/-- Settles O25: PIX is frozen while PHASE is not IDLE, and in IDLE `ledNext_idle_cases` lists the two commands that
write it. -/
theorem pixWrittenOnlyByLoadAndFill : Obligations.PixWrittenOnlyByLoadAndFill := by
  intro s t hr ht hpix
  obtain ⟨l, hl, rfl⟩ := (step_next s t hr).mp ht
  by_cases hi : s.led.phase = .idle
  · refine ⟨hi, ?_⟩
    rcases ledNext_idle_cases hi hr hl with ⟨rfl, -⟩ | ⟨idx, r, g, b, hacc, hidx, rfl⟩ | ⟨r, g, b, hacc, -⟩ |
      ⟨-, rfl⟩ | ⟨-, -, -, rfl⟩
    · exact absurd rfl hpix
    · exact .inl ⟨idx, r, g, b, hacc, hidx, fun j hj => (Memory.read_write ..).trans (if_neg hj)⟩
    · exact .inr ⟨r, g, b, hacc⟩
    · exact absurd rfl hpix
    · exact absurd rfl hpix
  · rw [ledNext_busy _ _ _ hi] at hl
    exact absurd (busyNext_pix hi hl) hpix

/-- Settles O26: in IDLE DISPLAYED follows the clearing commands (`ledNext_idle_displayed`), and while PHASE is not IDLE
it changes at the end of a frame only (`busyNext_displayed`, `busyNext_frameEnd`). -/
theorem displayedChangesOnlyAsListed : Obligations.DisplayedChangesOnlyAsListed := by
  intro s t hr ht
  obtain ⟨l, hl, rfl⟩ := (step_next s t hr).mp ht
  simp only [State.displayed]
  by_cases hi : s.led.phase = .idle
  · have hend : s.led.phase ≠ .low := by simp [hi]
    rcases ledNext_idle_displayed hi hr hl with ⟨hclear, hd⟩ | ⟨hclear, hd⟩
    · exact ⟨fun _ => hd, fun _ _ => hclear, fun _ h1 => by simp [hd] at h1, fun hp => absurd hp hend⟩
    · exact ⟨fun h => absurd h hclear, fun h1 h0 => by simp [hd, h1] at h0, fun h0 h1 => by simp [hd, h0] at h1,
        fun hp => absurd hp hend⟩
  · rw [ledNext_busy _ _ _ hi] at hl
    have hset (h : s.led.AtFrameEnd s.params) : l.displayed = true ∧ l.phase = .latch := by
      rw [busyNext_frameEnd h] at hl
      cases hl
      exact ⟨rfl, rfl⟩
    refine ⟨fun h => absurd h.idle hi, fun h1 h0 => ?falls, fun h0 h1 => ?rises, fun hp hc hb hx => ?last⟩
    case falls =>
      rcases busyNext_displayed hi hl with hd | hlast
      · simp [hd, h1] at h0
      · simp [hset hlast] at h0
    case rises =>
      rcases busyNext_displayed hi hl with hd | hlast
      · simp [hd, h0] at h1
      · obtain ⟨-, hlatch⟩ := hset hlast
        obtain ⟨hp, hc, hb, hx⟩ := hlast
        exact ⟨hp, hc, hb, hx, hlatch⟩
    case last => exact hset ⟨hp, hc, hb, hx⟩

/-- Settles O37: reset, a cycle without a strobe and the guard leave no new DoubleClap; a transition enters it as
`clapTransition_doubleClap` says. -/
theorem doubleClapNeedsAFirstClapInTheWindow : Obligations.DoubleClapNeedsAFirstClapInTheWindow := by
  intro s t ht hd hne
  cases hr : s.inputs.rst
  case true =>
    rw [step_reset s hr] at ht
    cases ht
    cases hd
  case false =>
    obtain ⟨l, -, rfl⟩ := (step_next s t hr).mp ht
    replace hd : (clapNext s.inputs s.params s.clap).clapState = .doubleClap := hd
    rcases clapNext_cases s.inputs s.params s.clap with ⟨-, hc⟩ | ⟨-, -, hc⟩ | ⟨hv, hg, found, acc, hc⟩ <;>
      rw [hc] at hd
    · exact absurd hd hne
    · cases hd
    · obtain ⟨hfirst, hmin, hmax, htick⟩ := clapTransition_doubleClap hd hne
      exact ⟨rfl, hv, hfirst, hg, hmin, hmax, (congrArg Clap.lastClapTick hc).trans htick⟩

/-- Settles O52, by `step_next_frame` and `step_ne_refused`. -/
theorem parametersAreFixedAndNothingIsRefused : Obligations.ParametersAreFixedAndNothingIsRefused :=
  fun s => ⟨fun _ h => (step_next_frame h).1, step_ne_refused s⟩

end Sys2Proof.Machine
end

section
/-! The command port (10_state.md R41): where LedDriver reads it and where it does not. -/

namespace Sys2Proof.Machine

theorem isLedOperation_decodeCmd (w : CmdWord) : isLedOperation (decodeCmd w) = true := by
  rcases decodeCmd_cases w with h | h | h | h | h <;> rw [h] <;> rfl

/-- An accepted command's effect on LedDriver. -/
theorem ledNext_accepted {s : State} (h : acceptsCommand s) :
    ledNext s.inputs s.params s.led = ledEffect (decodeCmd s.inputs.cmd) s.params s.led := by
  simp only [ledNext, ledOperation_idle_command h.idle h.1]

/-- Without `cmd_valid` the command word is not read. -/
theorem ledNext_quiet_cmd {i : Inputs} (h : i.cmdValid = false) (w : CmdWord) (p : Params) (l : Led) :
    ledNext { i with cmd := w } p l = ledNext i p l := by
  by_cases hi : l.phase = .idle
  · simp only [ledNext, ledOperation_idle_none hi h, ledOperation_idle_none (i := { i with cmd := w }) hi h]
  · rw [ledNext_busy _ _ _ hi, ledNext_busy _ _ _ hi]

/-- Other values on the command port change a step only through LedDriver's next state. -/
theorem step_port_congr {s : State} {i : Inputs} {v : Bool} {w : CmdWord} (rest : List Stimulus)
    (h : ledNext { i with cmdValid := v, cmd := w } s.params s.led = ledNext i s.params s.led) :
    step { s with stimulus := .cycle { i with cmdValid := v, cmd := w } :: rest } =
      step { s with stimulus := .cycle i :: rest } := by
  rw [step_eq, step_eq]
  simp only [State.inputs, h]
  rfl

/-- Settles O11: an accepted command's effect is `ledEffect` of it, and where LedDriver does not read the port its next
state is the same for every value there. -/
theorem commandPortIsReadOnlyOnAcceptance : Obligations.CommandPortIsReadOnlyOnAcceptance := by
  refine ⟨fun s t hacc ht => ?accepted, fun s i rest w hv => ?quiet, fun s i rest v w hb => ?busy⟩
  case accepted =>
    have ⟨_, _, hr⟩ := hacc
    obtain ⟨l, hl, rfl⟩ := (step_next s t hr).mp ht
    rw [ledNext_accepted hacc] at hl
    rw [exec_ledOperation (isLedOperation_decodeCmd _)]
    exact ⟨{ s with led := l }, (onLed_eq_next ..).mpr ⟨l, hl, rfl⟩, rfl⟩
  case quiet => exact step_port_congr rest (ledNext_quiet_cmd hv w s.params s.led)
  case busy => exact step_port_congr rest (by rw [ledNext_busy _ _ _ hb, ledNext_busy _ _ _ hb])

end Sys2Proof.Machine
end

section
/-! The outputs (10_state.md R43, R45), in the reset state and in the cycles after it (R35, R47, R174). -/

namespace Sys2Proof.Machine

/-! ## Runs -/

theorem states_succ {s t : State} (h : step s = .next t) (k : Nat) : states (k + 1) s = s :: states k t := by
  simp only [states, h]

theorem states_one (s : State) : states 1 s = [s] := by
  unfold states
  cases step s <;> rfl

/-- One cycle of the latch interval without a reset (R173, R174). -/
theorem step_latch {s : State} (hp : s.led.phase = .latch) (hq : noReset s.stimulus) :
    ∃ t, step s = .next t ∧ noReset t.stimulus ∧
      t.led = if s.led.cnt ≠ 0 then { s.led with cnt := s.led.cnt - 1 } else { s.led with phase := .idle } := by
  have hl : ledNext s.inputs s.params s.led =
      .ok (if s.led.cnt ≠ 0 then { s.led with cnt := s.led.cnt - 1 } else { s.led with phase := .idle }) := by
    rw [ledNext_busy _ _ _ (by simp [hp]), busyNext_latch hp]
  exact ⟨_, (step_next s _ (noReset_inputs hq)).mpr ⟨_, hl, rfl⟩, noReset_rest hq, rfl⟩

/-- The latch interval with `n` cycles to run after this one: low and not ready throughout, ready in the cycle after. -/
theorem states_latch (n : Nat) : ∀ s : State, s.led.phase = .latch → s.led.cnt = n → noReset s.stimulus →
    (states (n + 2) s).map (fun t => (t.dout, t.cmdReady)) = List.replicate (n + 1) (false, false) ++ [(false, true)] := by
  induction n with
  | zero =>
    intro s hp hc hq
    obtain ⟨t, ht, -, hled⟩ := step_latch hp hq
    have hidle : t.led.phase = .idle := by simp [hled, hc]
    rw [states_succ ht, states_one]
    simp [State.dout, State.cmdReady, hp, hidle]
  | succ n ih =>
    intro s hp hc hq
    obtain ⟨t, ht, hq', hled⟩ := step_latch hp hq
    have hcount : t.led = { s.led with cnt := n } := by simp [hled, hc]
    rw [states_succ ht, List.map_cons, ih t (by simp [hcount, hp]) (by simp [hcount]) hq',
      List.replicate_succ (n := n + 1)]
    simp [State.dout, State.cmdReady, hp]

/-! ## The statements -/

/-- Settles O48: reset leaves the first cycle of a latch interval with `TRESET - 1` cycles to run after it. -/
theorem readyTresetCyclesAfterReset : Obligations.ReadyTresetCyclesAfterReset := by
  intro s hw hled hq
  obtain ⟨n, hn⟩ : ∃ n, s.params.tReset = n + 1 :=
    ⟨s.params.tReset - 1, by have := Params.wf_facts hw; omega⟩
  rw [hn]
  exact states_latch n s (by rw [hled]; rfl) (by rw [hled, Led.reset, hn]; rfl) hq

/-- Settles O42: the triple observed is `State.colourOutput`, which executing the cycle's RENDER and every step leave
(`step_next_frame`), the reset edge too (`step_reset`). -/
theorem colourOutputsAreRenderOfTheInputs : Obligations.ColourOutputsAreRenderOfTheInputs := by
  refine fun s => ⟨⟨s.draws + s.colourDraws, rfl, fun t h => ?stepped⟩, fun hoff => ?off, fun hr => ?reset⟩
  case stepped =>
    obtain ⟨-, -, hrgb, hdraws⟩ := step_next_frame h
    exact ⟨hrgb, hdraws⟩
  case off =>
    simp only [observe, State.colourOutput, hoff, renderOutput_off]
  case reset => exact ⟨_, step_reset s hr, rfl⟩

/-- Settles O47: the outputs are read off the reset values PHASE = LATCH, DISPLAYED = 0 and EVENT = 0. -/
theorem resetStateOutputs : Obligations.ResetStateOutputs :=
  fun _ => ⟨rfl, rfl, rfl, rfl, rfl, rfl⟩

/-- Settles O53: PHASE decides the four status outputs. -/
theorem outputsAreConsistent : Obligations.OutputsAreConsistent := by
  intro s
  simp only [State.dout, State.irqMask, State.cmdReady, State.busy, State.displayed, State.event]
  cases s.led.phase <;> simp

end Sys2Proof.Machine
end

section
/-! The frame buffer between the two commands that use it (20_memory.md R67): LOAD and REFRESH executed in IDLE. -/

namespace Sys2Proof.Machine

/-- A LedDriver operation executed where its effect on LedDriver is known. -/
theorem exec_of_ledEffect {i : Instr} {s : State} {l : Led} (hi : isLedOperation i = true)
    (h : ledEffect i s.params s.led = .ok l) : exec i s = .next { s with led := l } := by
  rw [exec_ledOperation hi]
  exact (onLed_eq_next ..).mpr ⟨l, h, rfl⟩

/-- LOAD in IDLE and in range (R161). -/
theorem exec_load_inRange {s : State} {idx : Nat} (r g b : Byte) (hi : s.led.phase = .idle)
    (hidx : idx < s.params.nLeds) :
    exec (.load idx r g b) s =
      .next { s with led := { s.led with pix := Memory.write s.led.pix idx (pixel r g b), displayed := false } } :=
  exec_of_ledEffect rfl (by simp [ledEffect, whenReady_idle _ _ _ hi, hidx, storePixel, Led.clearDisplayed])

/-- REFRESH in IDLE with DISPLAYED = 0 (R164, R165). -/
theorem exec_refresh_starts {s : State} (hi : s.led.phase = .idle) (hd : s.led.displayed = false)
    (hn : 1 ≤ s.params.nLeds) :
    exec .refresh s = .next { s with
      led := startSymbol s.params { s.led with ledIdx := 0#16, bitIdx := 0#5 }
        (wire s.params.byteOrder (Memory.read s.led.pix 0)) } :=
  exec_of_ledEffect rfl
    (by simp [ledEffect, whenReady_idle _ _ _ hi, hd, startTransmission, startPixel_ok _ _ 0 hn])

/-- Settles O14: LOAD leaves IDLE with DISPLAYED = 0, so the REFRESH starts, and both pixels are read from the buffer
the store left (`Memory.read_write`). -/
theorem loadIsSeenByTheNextRefresh : Obligations.LoadIsSeenByTheNextRefresh := by
  intro s idx r g b hi hidx
  rw [exec_load_inRange r g b hi hidx, andThen_next]
  refine ⟨_, exec_refresh_starts hi rfl (Nat.one_le_of_lt hidx), rfl, ?loaded, ?shift⟩
  case loaded => exact (Memory.read_write ..).trans (if_pos rfl)
  case shift =>
    simp only [startSymbol_shift, Memory.read_write, pixel, eq_comm (a := (0 : Nat))]

end Sys2Proof.Machine
end

section
/-! The sub-blocks side by side (00_scope.md R4, 20_memory.md R70): the inputs each next state reads. -/

namespace Sys2Proof.Machine

/-- Of the inputs LedDriver reads the command port alone. -/
theorem ledNext_congr {i i' : Inputs} (hv : i'.cmdValid = i.cmdValid) (hc : i'.cmd = i.cmd) (p : Params) (l : Led) :
    ledNext i' p l = ledNext i p l := by
  simp only [ledNext, ledOperation, hv, hc]

/-- Of the inputs ClapDetector reads the SAMPLE port alone. -/
theorem clapNext_congr {i i' : Inputs} (hv : i'.sampleValid = i.sampleValid) (hr : i'.reading = i.reading)
    (ht : i'.tick = i.tick) (hl : i'.lastTouchTick = i.lastTouchTick) (p : Params) (c : Clap) :
    clapNext i' p c = clapNext i p c := by
  simp only [clapNext, hv, hr, ht, hl]

/-- Off or in the domain RENDER makes no use of the free value (R148). -/
theorem renderOutput_draws_congr {on : Bool} {brightness hue : Nat}
    (h : on = false ∨ inDomain brightness hue = true) (n m : Nat) :
    renderOutput on brightness hue n = renderOutput on brightness hue m := by
  rcases h with rfl | h
  · rfl
  · cases on
    · rfl
    · rw [renderOutput_inDomain _ _ _ h, renderOutput_inDomain _ _ _ h]

/-- Settles O54: by `step_next` the next states of LedDriver and ClapDetector are `ledNext` and `clapNext`, and by
`step_next_frame` the colour outputs are RENDER of the cycle's inputs. -/
theorem subBlocksActIndependently : Obligations.SubBlocksActIndependently := by
  intro s s' t t' hp hr hr' ht ht'
  obtain ⟨l, hl, rfl⟩ := (step_next s t hr).mp ht
  obtain ⟨l', hl', rfl⟩ := (step_next s' t' hr').mp ht'
  refine ⟨fun hled hv hc => ?led, fun hclap hv hread htick htouch => ?clap, fun hon hb hh hdom => ?colour⟩
  case led =>
    rw [hp, hled, ledNext_congr hv hc, hl] at hl'
    exact (Except.ok.inj hl').symm
  case clap => simp only [hp, hclap, clapNext_congr hv hread htick htouch]
  case colour =>
    simp only [State.colourOutput, hon, hb, hh]
    exact renderOutput_draws_congr (hdom.imp_right (inDomain_iff _ _).mpr) _ _

end Sys2Proof.Machine
end

section
/-! Readiness (20_memory.md R68): a bound on the cycles to IDLE that every cycle of a transmission lowers. -/

namespace Sys2Proof.Machine

/-! ## Completion -/

/-- A cycle never stops: the pixel on the wire is in range (R38 (a)). -/
theorem busyNext_total {p : Params} {l : Led} (h : Led.Inv p l) : ∃ l', busyNext p l = .ok l' := by
  cases hp : l.phase <;> simp only [busyNext, hp]
  case idle => exact ⟨_, rfl⟩
  case high => split <;> exact ⟨_, rfl⟩
  case low =>
    split
    · exact ⟨_, rfl⟩
    · exact afterSymbol_total p l (h.ledIdx (.inr hp))
  case latch => split <;> exact ⟨_, rfl⟩

/-- A step without a reset while PHASE is not IDLE: it completes, keeps what is queued free of resets, and LedDriver
moves by `busyNext`. -/
theorem step_busy {s : State} (h : Inv s) (hb : s.led.phase ≠ .idle) (hq : noReset s.stimulus) :
    ∃ t, step s = .next t ∧ noReset t.stimulus ∧ t.params = s.params ∧ busyNext s.params s.led = .ok t.led := by
  obtain ⟨l, hl⟩ := busyNext_total h.led
  exact ⟨_, (step_next s _ (noReset_inputs hq)).mpr ⟨l, (ledNext_busy _ _ _ hb).trans hl, rfl⟩, noReset_rest hq, rfl, hl⟩

theorem run_succ {s t : State} (h : step s = .next t) (k : Nat) :
    Host.Core.run Sys2Proof.core (k + 1) s = Host.Core.run Sys2Proof.core k t := by
  simp only [Host.Core.run, core, h]

/-! ## The bound on the cycles to IDLE -/

/-- The cycles of the longer symbol (R181). -/
def longerSymbol (p : Params) : Nat := max (p.t0h + p.t0l) (p.t1h + p.t1l)

/-- The bits of the frame after the one on the wire. -/
def Led.bitsAfter (p : Params) (l : Led) : Nat := 23 - l.bitIdx.toNat + 24 * (p.nLeds - 1 - l.ledIdx.toNat)

/-- A bound on the cycles to IDLE: what is left of the symbol on the wire, the longer symbol for every bit after it, and
the latch interval. -/
def Led.cyclesToIdle (p : Params) (l : Led) : Nat :=
  match l.phase with
  | .idle => 0
  | .high => l.cnt + 1 + tl p (wireBit l.shift) + l.bitsAfter p * longerSymbol p + p.tReset
  | .low => l.cnt + 1 + l.bitsAfter p * longerSymbol p + p.tReset
  | .latch => l.cnt + 1

variable {p : Params} {l l' : Led}

theorem th_add_tl_le_longerSymbol (p : Params) (bit : Bool) : th p bit + tl p bit ≤ longerSymbol p := by
  cases bit <;> simp [th, tl, longerSymbol]

/-- The first cycle of a symbol needs at most the longer symbol for its own bit. -/
theorem cyclesToIdle_startSymbol_le (hw : p.wf = true) (l : Led) (w : BitVec 24) :
    (startSymbol p l w).cyclesToIdle p ≤ (l.bitsAfter p + 1) * longerSymbol p + p.tReset := by
  have hth := th_pos hw (wireBit w)
  have hsym := th_add_tl_le_longerSymbol p (wireBit w)
  have hbits : (startSymbol p l w).bitsAfter p = l.bitsAfter p := rfl
  simp only [Led.cyclesToIdle, startSymbol_phase, startSymbol_shift, startSymbol_cnt, hbits, Nat.add_mul]
  omega

/-- The edge that ends a symbol's last cycle: the next symbol takes the place of one bit after it, and after the last
bit the latch interval is left. -/
theorem cyclesToIdle_afterSymbol_le (hw : p.wf = true) (h : Led.Inv p l) (hp : l.phase = .low)
    (ha : afterSymbol p l = .ok l') : l'.cyclesToIdle p ≤ l.bitsAfter p * longerSymbol p + p.tReset := by
  have hfacts := Params.wf_facts hw
  have hbit := h.bitIdx (.inr hp)
  rcases afterSymbol_cases ha with ⟨hb, rfl⟩ | ⟨hb, -, hn, rfl⟩ | ⟨-, -, rfl⟩
  case inl =>
    have hbits : ({ l with bitIdx := l.bitIdx + 1#5 } : Led).bitsAfter p + 1 = l.bitsAfter p := by
      have hb' : l.bitIdx.toNat ≠ 23 := fun he => hb (BitVec.eq_of_toNat_eq he)
      simp only [Led.bitsAfter, BitVec.toNat_add, BitVec.toNat_ofNat]
      omega
    exact hbits ▸ cyclesToIdle_startSymbol_le hw _ _
  case inr.inl =>
    have hbits : ({ l with ledIdx := BitVec.ofNat 16 (l.ledIdx.toNat + 1), bitIdx := 0#5 } : Led).bitsAfter p + 1 =
        l.bitsAfter p := by
      simp only [Led.bitsAfter, hb, BitVec.toNat_ofNat]
      omega
    exact hbits ▸ cyclesToIdle_startSymbol_le hw _ _
  case inr.inr =>
    simp only [Led.cyclesToIdle, endTransmission_phase, endTransmission_cnt]
    omega

/-- Every cycle lowers the bound until PHASE is IDLE. -/
theorem cyclesToIdle_busyNext_lt (hw : p.wf = true) (h : Led.Inv p l) (hb : l.phase ≠ .idle)
    (hn : busyNext p l = .ok l') : l'.cyclesToIdle p < l.cyclesToIdle p := by
  rcases busyNext_cases hb hn with ⟨hc, rfl⟩ | ⟨hp, rfl⟩ | ⟨hp, -, ha⟩ | ⟨hp, rfl⟩
  · cases hp : l.phase
    case idle => exact absurd hp hb
    all_goals
      simp only [Led.cyclesToIdle, Led.bitsAfter, hp]
      omega
  · have htl := tl_pos hw (wireBit l.shift)
    simp only [Led.cyclesToIdle, Led.bitsAfter, hp]
    omega
  · have hle := cyclesToIdle_afterSymbol_le hw h hp ha
    simp only [Led.cyclesToIdle, hp] at hle ⊢
    omega
  · simp only [Led.cyclesToIdle, hp]
    omega

/-- The bound is at most the longest frame and the latch interval (R181). -/
theorem cyclesToIdle_le (hw : p.wf = true) (h : Led.Inv p l) :
    l.cyclesToIdle p ≤ 24 * p.nLeds * longerSymbol p + p.tReset := by
  have hfacts := Params.wf_facts hw
  have hsym := th_add_tl_le_longerSymbol p (wireBit l.shift)
  have hframe : (l.bitsAfter p + 1) * longerSymbol p ≤ 24 * p.nLeds * longerSymbol p :=
    Nat.mul_le_mul_right _ (by simp only [Led.bitsAfter]; omega)
  rw [Nat.add_mul] at hframe
  cases hp : l.phase <;> simp only [Led.cyclesToIdle, hp]
  case idle => omega
  case high =>
    have hcnt := h.cntHigh hp
    have hth := th_pos hw (wireBit l.shift)
    omega
  case low =>
    have hcnt := h.cntLow hp
    have htl := tl_pos hw (wireBit l.shift)
    omega
  case latch =>
    have hcnt := h.cntLatch hp
    omega

end Sys2Proof.Machine

namespace Sys2Proof.Machine

/-! ## The statement -/

/-- Without a reset the block is ready within the bound on the cycles to IDLE. -/
theorem run_reaches_ready (s : State) (h : Inv s) (hq : noReset s.stimulus) :
    ∃ n t, n ≤ s.led.cyclesToIdle s.params ∧ Host.Core.run Sys2Proof.core n s = .next t ∧ t.cmdReady = true := by
  by_cases hi : s.led.phase = .idle
  · exact ⟨0, s, Nat.zero_le _, rfl, (cmdReady_iff s).mpr hi⟩
  · obtain ⟨t, ht, hqt, hpt, hl⟩ := step_busy h hi hq
    have hlt : t.led.cyclesToIdle t.params < s.led.cyclesToIdle s.params := by
      rw [hpt]
      exact cyclesToIdle_busyNext_lt h.params h.led hi hl
    obtain ⟨n, u, hn, hrun, hready⟩ := run_reaches_ready t (stepKeepsTheInvariant s t h ht) hqt
    exact ⟨n + 1, u, Nat.succ_le_of_lt (hn.trans_lt hlt), (run_succ ht n).trans hrun, hready⟩
termination_by s.led.cyclesToIdle s.params

/-- Settles O29: `run_reaches_ready` with the bound `cyclesToIdle_le`. -/
theorem readyWithinOneFrame : Obligations.ReadyWithinOneFrame := by
  intro s h hq
  obtain ⟨n, t, hn, hrun, hready⟩ := run_reaches_ready s h hq
  exact ⟨n, t, hn.trans (cyclesToIdle_le h.params h.led), hrun, hready⟩

end Sys2Proof.Machine
end

section
/-! The encodings (30_encoding.md): decoding an encoding gives the operation back, and which fields of a command word
are read. The three waveforms of format W are told apart by their cycles at level 1. -/

namespace Sys2Proof

/-! ## Format W -/

theorem symWave_count_true (p : Params) (bit : Bool) : (symWave p bit).count true = th p bit := by
  simp [symWave, highRun, lowRun, List.count_replicate]

theorem latchWave_count_true (p : Params) : (latchWave p).count true = 0 := by
  simp [latchWave, lowRun, List.count_replicate]

/-- The symbols differ in their high parts, since `T1H ≠ T0H` (R9). -/
theorem symWave_true_ne_false {p : Params} (h : p.wf = true) : symWave p true ≠ symWave p false := by
  intro heq
  have hcount : th p true = th p false := by
    simpa only [symWave_count_true] using congrArg (List.count true) heq
  have hhigh : p.t1h = p.t0h := hcount
  have := Params.wf_facts h
  omega

/-- A symbol has a high part, the latch interval has none. -/
theorem latchWave_ne_symWave {p : Params} (h : p.wf = true) (bit : Bool) : latchWave p ≠ symWave p bit := by
  intro heq
  have hcount : 0 = th p bit := by
    simpa only [symWave_count_true, latchWave_count_true] using congrArg (List.count true) heq
  have := th_pos h bit
  omega

theorem decodeWave_sym0 (p : Params) : decodeWave p (symWave p false) = .ok .sym0 := if_pos rfl

theorem decodeWave_sym1 {p : Params} (h : p.wf = true) : decodeWave p (symWave p true) = .ok .sym1 := by
  rw [decodeWave, if_neg (symWave_true_ne_false h), if_pos rfl]

theorem decodeWave_latch {p : Params} (h : p.wf = true) : decodeWave p (latchWave p) = .ok .symLatch := by
  rw [decodeWave, if_neg (latchWave_ne_symWave h false), if_neg (latchWave_ne_symWave h true), if_pos rfl]

/-! ## Formats S, K and C -/

/-- An operand that fits its field, as `Instr.wf` checks it, is read back from the field. -/
theorem toNat_ofNat_of_fits {n width : Nat} (h : decide (n < 2 ^ width) = true) : (BitVec.ofNat width n).toNat = n :=
  (BitVec.toNat_ofNat n width).trans (Nat.mod_eq_of_lt (of_decide_eq_true h))

theorem decodeSample_word (reading : BitVec 10) (tick touch : Tick) :
    decodeSample (sampleWord reading tick touch) = .sample reading.toNat tick touch := by
  rw [decodeSample, sampleWord_reading, sampleWord_tick, sampleWord_touch]

theorem decodeRender_word (on : Bool) (brightness : BitVec 7) (hue : BitVec 8) :
    decodeRender (renderWord on brightness hue) = .render on brightness.toNat hue.toNat := by
  rw [decodeRender, renderWord_on, renderWord_brightness, renderWord_hue]

/-- The codes 5 to 15 (R97). -/
theorem decodeCmd_reserved {w : CmdWord} (h : 5 ≤ (cmdOp w).toNat) : decodeCmd w = .nop := by
  unfold decodeCmd
  split
  case h_6 => rfl
  all_goals omega

/-! ## The statements -/

/-- Settles O2: each operand is read back from its field (`toNat_ofNat_of_fits`), and the three waveforms differ. -/
theorem decodeOfEncodeGivesBackTheOperation : Obligations.DecodeOfEncodeGivesBackTheOperation := by
  intro p i hp hi
  cases i <;> simp only [encode, decode, decodeCmd_word, decodeSample_word, decodeRender_word]
  case nop | fill | invalidate | refresh => rfl
  case load idx r g b =>
    have hidx : (BitVec.ofNat 16 idx).toNat = idx := toNat_ofNat_of_fits hi
    rw [hidx]
    rfl
  case sample reading tick touch => rw [toNat_ofNat_of_fits hi]
  case render on brightness hue =>
    obtain ⟨hbrightness, hhue⟩ := Bool.and_eq_true_iff.mp hi
    rw [toNat_ofNat_of_fits hbrightness, toNat_ofNat_of_fits hhue]
  case sym0 => exact decodeWave_sym0 p
  case sym1 => exact decodeWave_sym1 hp
  case symLatch => exact decodeWave_latch hp

/-- Settles O1: the words are literals. -/
theorem wordsOfTheSpecDecode : Obligations.WordsOfTheSpecDecode := by
  unfold Obligations.WordsOfTheSpecDecode
  decide

/-- Settles O3: `decodeCmd_word` at each code, `decodeCmd_reserved` and `cmdWord_mask`. -/
theorem commandReadsItsFieldsOnly : Obligations.CommandReadsItsFieldsOnly :=
  ⟨decodeCmd_word 0#4, decodeCmd_word 1#4, decodeCmd_word 2#4, decodeCmd_word 3#4, decodeCmd_word 4#4,
    fun op idx r g b h => decodeCmd_reserved (by rwa [cmdOp_word]), Laws.cmdWord_mask⟩

end Sys2Proof
end

section
/-! Commands without an effect (30_encoding.md R97, R100) and the pseudo-operation SHOWCFG (R101). -/

namespace Sys2Proof.Machine

/-- NOP changes nothing, in IDLE and in every other phase (R176). -/
theorem exec_nop (s : State) : exec .nop s = .next s := by
  refine exec_of_ledEffect (l := s.led) rfl ?_
  by_cases hi : s.led.phase = .idle
  · exact whenReady_idle (fun _ l => .ok l) s.params _ hi
  · exact whenReady_busy (fun _ l => .ok l) s.params _ hi

theorem exec_render (on : Bool) (brightness hue : Nat) (s : State) :
    exec (.render on brightness hue) s =
      .next { s with rgb := renderOutput on brightness hue s.draws, draws := s.draws + renderDraws on brightness hue } :=
  rfl

theorem expandScript_showCfg (draws : Nat) (on : Bool) (brightness hue : Nat) (rest : List ScriptLine) :
    expandScript draws (.showCfg on brightness hue :: rest) =
      .op (.render on brightness hue) :: expandShow (renderOutput on brightness hue draws) ++
        expandScript (draws + renderDraws on brightness hue) rest := rfl

/-- The inputs of a cycle whose queue starts with a command line. -/
theorem State.inputs_hold {s : State} {w : CmdWord} {rest : List Stimulus} (h : s.stimulus = .hold w :: rest) :
    s.inputs = cmdInputs w := by
  simp only [State.inputs, h]

/-- A command line leaves the queue in the cycle that accepts it (R100). -/
theorem State.restStimulus_hold {s : State} {w : CmdWord} {rest : List Stimulus} (h : s.stimulus = .hold w :: rest) :
    s.restStimulus = if s.led.phase = .idle then rest else .hold w :: rest := by
  simp only [State.restStimulus, h]

/-- Settles O4: a reserved code decodes to NOP, which changes nothing. -/
theorem reservedCodesChangeNoState : Obligations.ReservedCodesChangeNoState := by
  intro w s h
  rw [decodeCmd_reserved h]
  exact ⟨rfl, exec_nop s⟩

/-- Settles O43: the triple and the draw counter RENDER leaves are those SHOWCFG expands with. -/
theorem showCfgShowsTheRenderedTriple : Obligations.ShowCfgShowsTheRenderedTriple := by
  intro s t on brightness hue rest h
  rw [exec_render] at h
  cases h
  exact expandScript_showCfg s.draws on brightness hue rest

/-- Settles O45: the queue a step leaves is `restStimulus`, and a command line presents its word without a reset. -/
theorem heldCommandWaitsForAcceptance : Obligations.HeldCommandWaitsForAcceptance := by
  intro s t w rest hq ht
  obtain ⟨-, hrest, -, -⟩ := step_next_frame ht
  rw [State.restStimulus_hold hq] at hrest
  refine ⟨fun hb => ⟨hrest.trans (if_neg hb), fun hacc => hb hacc.idle⟩, fun hi => ⟨hrest.trans (if_pos hi), ?accepted⟩⟩
  rw [accepts, acceptsCommand, State.inputs_hold hq]
  exact ⟨⟨rfl, (cmdReady_iff s).mpr hi, rfl⟩, rfl⟩

end Sys2Proof.Machine
end

section
/-! The bits of a pixel in the order they are sent (30_encoding.md R85 to R89). -/

namespace Sys2Proof.Machine

@[simp] theorem chan_pixel_R (r g b : Byte) : chan (pixel r g b) .R = r :=
  ((extract_append_high (r ++ g) b 8 8).trans (extract_append_high r g 0 8)).trans (extract_whole r)

@[simp] theorem chan_pixel_G (r g b : Byte) : chan (pixel r g b) .G = g :=
  ((extract_append_high (r ++ g) b 0 8).trans (extract_append_low r g 0 8 (by omega))).trans (extract_whole g)

@[simp] theorem chan_pixel_B (r g b : Byte) : chan (pixel r g b) .B = b :=
  (extract_append_low (r ++ g) b 0 8 (by omega)).trans (extract_whole b)

theorem pixelBits_getElem? (o : ByteOrder) (v : Pixel) {j : Nat} (h : j < 24) :
    (pixelBits o v)[j]? = some ((wire o v).getLsbD (23 - j)) := by
  rw [pixelBits, List.getElem?_map, List.getElem?_range h, Option.map_some]

/-- Settles O5: each byte order names the channels it sends, and `pixelBits` lists the bits from the top. -/
theorem wireWordFollowsByteOrder : Obligations.WireWordFollowsByteOrder := by
  intro r g b
  refine ⟨?_, ?_, ?_, ?_, ?_, ?_, fun o j hj => pixelBits_getElem? o (pixel r g b) hj⟩
  all_goals simp only [wire, byteOrderChannels, chan_pixel_R, chan_pixel_G, chan_pixel_B]

end Sys2Proof.Machine
end

section
/-! The waveforms of the wire symbols (30_encoding.md R91 to R93): an operation performed once a cycle while CNT counts
down holds one level on `dout`, and a symbol is two such parts. -/

namespace Sys2Proof.Machine

/-! ## Runs of one operation -/

/-- Performed `n` times over from `s`, the operation leads to `t` and drives the waveform `w`. -/
structure Drives (i : Instr) (n : Nat) (s : State) (w : Wave) (t : State) : Prop where
  leads : execTimes i n s = .next t
  wave : execWave i n s = w

variable {i : Instr} {n m : Nat} {s t u : State} {v w : Wave}

theorem Drives.zero (i : Instr) (s : State) : Drives i 0 s [] s := ⟨rfl, rfl⟩

theorem Drives.cons (h : exec i s = .next t) (hd : Drives i n t w u) : Drives i (n + 1) s (s.dout :: w) u where
  leads := by rw [execTimes, h, andThen_next, hd.leads]
  wave := by simp only [execWave, h, hd.wave]

/-- The first cycle of a run that completes. -/
theorem Drives.exists_first (h : Drives i (n + 1) s w u) :
    ∃ t v, exec i s = .next t ∧ Drives i n t v u ∧ w = s.dout :: v := by
  obtain ⟨hleads, rfl⟩ := h
  rw [execTimes] at hleads
  cases hs : exec i s <;> rw [hs] at hleads
  case next t => exact ⟨t, _, rfl, ⟨hleads, rfl⟩, by simp only [execWave, hs]⟩
  all_goals cases hleads

/-- One run after another. -/
theorem Drives.append (h : Drives i n s v t) (hd : Drives i m t w u) : Drives i (n + m) s (v ++ w) u := by
  induction n generalizing s v with
  | zero =>
    obtain ⟨hleads, rfl⟩ := h
    cases hleads
    rwa [Nat.zero_add]
  | succ n ih =>
    obtain ⟨s', v', hs, hrun, rfl⟩ := h.exists_first
    rw [Nat.succ_add]
    exact (ih hrun).cons hs

/-! ## Counting down -/

/-- The state with another number of cycles left of what is on the wire. -/
def State.withCnt (s : State) (n : Nat) : State := { s with led := { s.led with cnt := n } }

theorem busyNext_countDown {p : Params} {l : Led} (hb : l.phase ≠ .idle) (hc : l.cnt ≠ 0) :
    busyNext p l = .ok { l with cnt := l.cnt - 1 } := by
  cases hp : l.phase
  case idle => exact absurd hp hb
  all_goals simp only [busyNext, hp, if_pos hc]

/-- Executing what is on the wire, in LATCH too, moves LedDriver as the cycle itself does. -/
theorem exec_onWire (hb : s.led.phase ≠ .idle) (hop : ledOperation s.inputs s.led = some i) :
    exec i s = onLed s busyNext := by
  rw [← ledCycle_some (run := exec) hop, ledCycle_eq, onLed, ledNext_busy _ _ _ hb]
  rfl

/-- CNT counts down to 0 at one level on `dout`, and the cycle at 0 ends the run. -/
theorem drives_countDown (hb : s.led.phase ≠ .idle) (hop : ledOperation s.inputs s.led = some i)
    (hend : exec i (s.withCnt 0) = .next t) (n : Nat) :
    Drives i (n + 1) (s.withCnt n) (List.replicate (n + 1) s.dout) t := by
  induction n with
  | zero => exact (Drives.zero i t).cons hend
  | succ n ih =>
    have hcount : exec i (s.withCnt (n + 1)) = .next (s.withCnt n) := by
      rw [exec_onWire (s := s.withCnt (n + 1)) hb hop, onLed_eq_next]
      exact ⟨_, busyNext_countDown hb (Nat.succ_ne_zero n), rfl⟩
    exact ih.cons hcount

/-- The same from a state with one cycle of the count in hand. -/
theorem drives_level (hb : s.led.phase ≠ .idle) (hop : ledOperation s.inputs s.led = some i)
    (hpos : 1 ≤ n) (hcnt : s.led.cnt = n - 1) (hend : exec i (s.withCnt 0) = .next t) :
    Drives i n s (List.replicate n s.dout) t := by
  obtain ⟨k, rfl⟩ := Nat.exists_eq_add_of_le' hpos
  have hs : s.withCnt k = s := by
    rw [← show s.led.cnt = k from hcnt]
    rfl
  simpa only [hs] using drives_countDown hb hop hend k

/-! ## The parts of a symbol -/

/-- The wire symbol of a bit (R94). -/
def symbolOf (bit : Bool) : Instr := if bit then .sym1 else .sym0

theorem ledOperation_symbolOf {i : Inputs} {l : Led} (h : l.phase = .high ∨ l.phase = .low) :
    ledOperation i l = some (symbolOf (wireBit l.shift)) := ledOperation_symbol h

/-- The first cycle of the low part of the symbol on the wire (R168). -/
def State.lowPart (s : State) : State :=
  { s with led := { s.led with phase := .low, cnt := tl s.params (wireBit s.led.shift) - 1 } }

variable {bit : Bool}

/-- The high part: `H^TH`, then the low part begins (R167, R168). -/
theorem highPart_drives (hw : s.params.wf = true) (hp : s.led.phase = .high) (hbit : wireBit s.led.shift = bit)
    (hcnt : s.led.cnt = th s.params bit - 1) :
    Drives (symbolOf bit) (th s.params bit) s (highRun (th s.params bit)) s.lowPart := by
  subst hbit
  have hb : s.led.phase ≠ .idle := by simp [hp]
  have hop := ledOperation_symbolOf (i := s.inputs) (.inl hp)
  have hend : exec (symbolOf (wireBit s.led.shift)) (s.withCnt 0) = .next s.lowPart := by
    rw [exec_onWire (s := s.withCnt 0) hb hop, onLed_eq_next]
    exact ⟨_, by simp [busyNext, State.withCnt, hp], rfl⟩
  have hrun := drives_level hb hop (th_pos hw _) hcnt hend
  rwa [show s.dout = true by simp [State.dout, hp]] at hrun

/-- A symbol is over in the second state: the next symbol is on the wire, or the latch interval with DISPLAYED set. -/
def Led.SymbolOver (l l' : Led) : Prop :=
  l'.phase = .high ∧ l'.displayed = l.displayed ∨ l'.phase = .latch ∧ l'.displayed = true

theorem afterSymbol_symbolOver {p : Params} {l l' : Led} (h : afterSymbol p l = .ok l') : l.SymbolOver l' := by
  rcases afterSymbol_cases h with ⟨-, rfl⟩ | ⟨-, -, -, rfl⟩ | ⟨-, -, rfl⟩
  · exact .inl ⟨rfl, rfl⟩
  · exact .inl ⟨rfl, rfl⟩
  · exact .inr ⟨rfl, rfl⟩

/-- The low part: `L^TL`, then the edge that ends the symbol (R169 to R172). -/
theorem lowPart_drives (hw : s.params.wf = true) (hp : s.led.phase = .low) (hbit : wireBit s.led.shift = bit)
    (hcnt : s.led.cnt = tl s.params bit - 1) (hidx : s.led.ledIdx.toNat < s.params.nLeds) :
    ∃ t, Drives (symbolOf bit) (tl s.params bit) s (lowRun (tl s.params bit)) t ∧ s.led.SymbolOver t.led := by
  subst hbit
  have hb : s.led.phase ≠ .idle := by simp [hp]
  have hop := ledOperation_symbolOf (i := s.inputs) (.inr hp)
  obtain ⟨l, hl⟩ := afterSymbol_total s.params (s.withCnt 0).led hidx
  have hend : exec (symbolOf (wireBit s.led.shift)) (s.withCnt 0) = .next { s with led := l } := by
    rw [exec_onWire (s := s.withCnt 0) hb hop, onLed_eq_next]
    exact ⟨l, by simpa [busyNext, State.withCnt, hp] using hl, rfl⟩
  have hrun := drives_level hb hop (tl_pos hw _) hcnt hend
  rw [show s.dout = false by simp [State.dout, hp]] at hrun
  exact ⟨_, hrun, afterSymbol_symbolOver hl⟩

/-- The symbol on the wire from its first cycle: the high part, then the low part. -/
theorem symbol_drives (h : Inv s) (hp : s.led.phase = .high) (hbit : wireBit s.led.shift = bit)
    (hcnt : s.led.cnt = th s.params bit - 1) :
    ∃ t, Drives (symbolOf bit) (tbit s.params bit) s (symWave s.params bit) t ∧ s.led.SymbolOver t.led := by
  have hlowCnt : s.lowPart.led.cnt = tl s.params bit - 1 := by rw [← hbit, State.lowPart]
  obtain ⟨t, hlow, hover⟩ := lowPart_drives (s := s.lowPart) h.params rfl hbit hlowCnt (h.led.ledIdx (.inl hp))
  exact ⟨t, (highPart_drives h.params hp hbit hcnt).append hlow, hover⟩

end Sys2Proof.Machine

namespace Sys2Proof.Machine

/-! ## The statements -/

/-- Settles O19: `symbol_drives` for each of the two bits. -/
theorem symbolDrivesItsWaveform : Obligations.SymbolDrivesItsWaveform := by
  intro s bit h hp hbit hcnt
  obtain ⟨t, hrun, hover⟩ := symbol_drives h hp hbit hcnt
  cases bit
  case false => exact ⟨fun _ => hrun.wave, nofun, t, hrun.leads, hover⟩
  case true => exact ⟨nofun, fun _ => hrun.wave, t, hrun.leads, hover⟩

/-- Settles O20: the latch interval counts down at level 0, and its cycle with CNT = 0 leads to IDLE. -/
theorem latchDrivesItsWaveform : Obligations.LatchDrivesItsWaveform := by
  intro s hp hpos hcnt
  have hb : s.led.phase ≠ .idle := by simp [hp]
  have hop := ledOperation_latch (i := s.inputs) hp
  have hend : exec .symLatch (s.withCnt 0) =
      .next { s with led := { s.led with phase := .idle, cnt := 0 } } := by
    rw [exec_onWire (s := s.withCnt 0) hb hop, onLed_eq_next]
    exact ⟨_, busyNext_latch hp, rfl⟩
  have hrun := drives_level hb hop hpos hcnt hend
  rw [show s.dout = false by simp [State.dout, hp]] at hrun
  exact ⟨hrun.wave, hrun.leads⟩

end Sys2Proof.Machine
end

section
/-! SAMPLE (40_clap_detector.md R113 to R122): the touch guard, the exact running average, the transition out of each
CLAP_STATE, the EVENT pulse, and the dependence on tick differences alone. -/

namespace Sys2Proof.Machine

/-! ## The running average -/

/-- Taking off `ACC / 2^K` makes room in the 26 bits for the largest reading: with `m = 2^K` and `n = 2^(16-K)`, what
stays of ACC is at most `2^26 - 1024·n`, and a reading adds less than `1024·n`. -/
theorem nextAverage_lt {p : Params} (hk : p.avgShift ≤ 16) (acc : BitVec 26) {reading : Nat} (hr : reading < 1024) :
    nextAverage p acc reading < 2 ^ 26 := by
  rw [nextAverage_eq]
  have hmn : 2 ^ p.avgShift * 2 ^ (16 - p.avgShift) = 2 ^ 16 := by
    rw [← pow_add, Nat.add_sub_cancel' hk]
  have hm : 0 < 2 ^ p.avgShift := by positivity
  have hn : 0 < 2 ^ (16 - p.avgShift) := by positivity
  have hacc := acc.isLt
  generalize 2 ^ p.avgShift = m at *
  generalize 2 ^ (16 - p.avgShift) = n at *
  have hq : acc.toNat / m < 1024 * n := Nat.div_lt_of_lt_mul (by linarith)
  have hrem := Nat.lt_mul_div_succ acc.toNat hm
  have hkept : acc.toNat + 1024 * n ≤ 2 ^ 26 + acc.toNat / m := by nlinarith
  have hadd : reading * n < 1024 * n := Nat.mul_lt_mul_of_pos_right hr hn
  have hle := Nat.div_le_self acc.toNat m
  omega

/-- The word `a` that holds the exact new average is the one SAMPLE writes. -/
theorem ofNat_nextAverage {p : Params} {acc a : BitVec 26} {reading : Nat}
    (ha : a.toNat = acc.toNat - acc.toNat / 2 ^ p.avgShift + reading * 2 ^ (16 - p.avgShift)) :
    BitVec.ofNat 26 (nextAverage p acc reading) = a := by
  rw [nextAverage_eq, ← ha, BitVec.ofNat_toNat, BitVec.setWidth_eq]

/-- A reading less than the threshold away from the average, on either side, is not detected (R115). -/
theorem detected_of_near {p : Params} {reading : Nat} {a : BitVec 26}
    (hhi : reading < a.toNat / 2 ^ 16 + p.clapThreshold) (hlo : a.toNat / 2 ^ 16 < reading + p.clapThreshold) :
    detected p reading a = false := by
  rw [Bool.eq_false_iff, ne_eq, detected_iff]
  omega

/-! ## The transition out of each CLAP_STATE -/

theorem clapTransition_noClap (p : Params) (found : Bool) (tick : Tick) {c : Clap} (hc : c.clapState = .noClap) :
    clapTransition p found tick c =
      if found then ({ c with clapState := .firstClap, lastClapTick := tick } : Clap).setEvent false
      else c.setEvent false := by
  simp only [clapTransition, hc]

theorem clapTransition_firstClap (p : Params) (found : Bool) (tick : Tick) {c : Clap} (hc : c.clapState = .firstClap) :
    clapTransition p found tick c =
      if tickDiff tick c.lastClapTick < p.interMin then c.setEvent false
      else if tickDiff tick c.lastClapTick < p.interMax then
        if found then ({ c with clapState := .doubleClap, lastClapTick := tick } : Clap).setEvent false
        else c.setEvent false
      else ({ c with clapState := .noClap } : Clap).setEvent false := by
  simp only [clapTransition, hc]

theorem clapTransition_ofDoubleClap (p : Params) (found : Bool) (tick : Tick) {c : Clap}
    (hc : c.clapState = .doubleClap) :
    clapTransition p found tick c =
      if p.clapToTouchMin < tickDiff tick c.lastClapTick then ({ c with clapState := .noClap } : Clap).setEvent true
      else c.setEvent false := by
  simp only [clapTransition, hc, gt_iff_lt]

/-- `confirm` is 1 in one transition only (R120). -/
theorem clapTransition_event_iff (p : Params) (found : Bool) (tick : Tick) (c : Clap) :
    (clapTransition p found tick c).event = true ↔
      c.clapState = .doubleClap ∧ p.clapToTouchMin < tickDiff tick c.lastClapTick := by
  cases hc : c.clapState
  case noClap =>
    rw [clapTransition_noClap p found tick hc]
    split <;> simp
  case firstClap =>
    rw [clapTransition_firstClap p found tick hc]
    split_ifs <;> simp
  case doubleClap =>
    rw [clapTransition_ofDoubleClap p found tick hc]
    split
    case isTrue h => exact ⟨fun _ => ⟨rfl, h⟩, fun _ => rfl⟩
    case isFalse h => exact ⟨nofun, fun ⟨_, hlt⟩ => absurd hlt h⟩

/-- EVENT after a cycle with `rst = 0`: the strobe, past the guard, confirmed (R112, R113, R121). -/
theorem clapNext_event_iff (i : Inputs) (p : Params) (c : Clap) :
    (clapNext i p c).event = true ↔
      i.sampleValid = true ∧ p.touchGuardMs ≤ (i.tick - i.lastTouchTick).toNat ∧ c.clapState = .doubleClap ∧
        p.clapToTouchMin < (i.tick - c.lastClapTick).toNat := by
  rcases clapNext_cases i p c with ⟨hv, hc⟩ | ⟨-, hg, hc⟩ | ⟨hv, hg, found, acc, hc⟩ <;> rw [hc]
  · simp [hv]
  · exact ⟨nofun, fun ⟨_, hle, _⟩ => absurd hg hle.not_gt⟩
  · rw [clapTransition_event_iff]
    exact ⟨fun h => ⟨hv, hg, h⟩, fun ⟨_, _, h⟩ => h⟩

/-! ## SAMPLE on the state -/

/-- An unguarded SAMPLE with the updated average `a`: ACC takes it and the transition follows (R114 to R120). -/
theorem exec_sample_unguarded {s : State} {reading : Nat} {tick touch : Tick} {a : BitVec 26}
    (hg : s.params.touchGuardMs ≤ (tick - touch).toNat)
    (ha : a.toNat = s.clap.acc.toNat - s.clap.acc.toNat / 2 ^ s.params.avgShift +
      reading * 2 ^ (16 - s.params.avgShift)) :
    exec (.sample reading tick touch) s =
      .next { s with clap :=
        clapTransition s.params (detected s.params reading a) tick { s.clap with acc := a } } := by
  rw [exec_sample, clapSample_unguarded hg, ofNat_nextAverage ha]

/-! ## Moving every tick by the same amount -/

/-- The recorded tick moved by `d` modulo 2^32. -/
def Clap.moveTick (c : Clap) (d : Tick) : Clap := { c with lastClapTick := c.lastClapTick + d }

theorem tickDiff_add_right (a b d : Tick) : tickDiff (a + d) (b + d) = tickDiff a b :=
  congrArg BitVec.toNat (add_sub_add_right_eq_sub a b d)

theorem clapTransition_moveTick (p : Params) (found : Bool) (tick d : Tick) (c : Clap) :
    clapTransition p found (tick + d) (c.moveTick d) = (clapTransition p found tick c).moveTick d := by
  have hdiff : tickDiff (tick + d) (c.moveTick d).lastClapTick = tickDiff tick c.lastClapTick :=
    tickDiff_add_right tick c.lastClapTick d
  cases hc : c.clapState
  case noClap =>
    rw [clapTransition_noClap p found _ hc, clapTransition_noClap p found _ (c := c.moveTick d) hc]
    split <;> rfl
  case firstClap =>
    rw [clapTransition_firstClap p found _ hc, clapTransition_firstClap p found _ (c := c.moveTick d) hc, hdiff]
    split_ifs <;> rfl
  case doubleClap =>
    rw [clapTransition_ofDoubleClap p found _ hc, clapTransition_ofDoubleClap p found _ (c := c.moveTick d) hc, hdiff]
    split <;> rfl

theorem clapSample_moveTick (reading : Nat) (tick touch d : Tick) (p : Params) (c : Clap) :
    clapSample reading (tick + d) (touch + d) p (c.moveTick d) = (clapSample reading tick touch p c).moveTick d := by
  have hdiff : (tick + d - (touch + d)).toNat = (tick - touch).toNat := tickDiff_add_right tick touch d
  rcases Nat.lt_or_ge (tick - touch).toNat p.touchGuardMs with hg | hg
  · rw [clapSample_guarded hg, clapSample_guarded (hdiff ▸ hg)]
    rfl
  · rw [clapSample_unguarded hg, clapSample_unguarded (hdiff ▸ hg)]
    exact clapTransition_moveTick _ _ _ _ { c with acc := BitVec.ofNat 26 (nextAverage p c.acc reading) }

/-! ## The statements -/

/-- Settles O31: `nextAverage_lt`, so the 26-bit word holds the exact value. -/
theorem averageIsUpdatedExactly : Obligations.AverageIsUpdatedExactly := by
  intro s reading tick touch hw hr hg
  obtain ⟨-, -, -, -, -, -, -, -, -, -, hk, -⟩ := Params.wf_facts hw
  have hlt := nextAverage_lt hk s.clap.acc hr
  have ha : (BitVec.ofNat 26 (nextAverage s.params s.clap.acc reading)).toNat = _ :=
    (Nat.mod_eq_of_lt hlt).trans (nextAverage_eq ..)
  refine ⟨_, exec_sample_unguarded hg ha, ?_, BitVec.isLt _⟩
  rw [clapTransition_acc]
  exact ha

/-- Settles O32: `clapTransition_noClap` with the reading detected or not. -/
theorem detectedSampleEntersFirstClap : Obligations.DetectedSampleEntersFirstClap := by
  intro s reading tick touch a _ _ hg hc ha
  rw [exec_sample_unguarded hg ha, clapTransition_noClap (c := { s.clap with acc := a }) _ _ _ hc]
  refine ⟨fun hfar => ?_, fun hhi hlo => ?_⟩
  · rw [(detected_iff ..).mpr hfar]
    rfl
  · rw [detected_of_near hhi hlo]
    rfl

/-- Settles O33: `clapTransition_firstClap`, range by range of the elapsed time. -/
theorem firstClapWaitsAdvancesOrTimesOut : Obligations.FirstClapWaitsAdvancesOrTimesOut := by
  intro s reading tick touch a hw _ hg hc ha
  obtain ⟨-, -, -, -, -, -, -, -, hinter, -⟩ := Params.wf_facts hw
  rw [exec_sample_unguarded hg ha, clapTransition_firstClap (c := { s.clap with acc := a }) _ _ _ hc]
  refine ⟨fun hearly => ?_, fun hmin hmax hfar => ?_, fun hmin hmax hhi hlo => ?_, fun hlate => ?_⟩
  · rw [if_pos hearly]
    rfl
  · rw [if_neg hmin.not_gt, if_pos hmax, (detected_iff ..).mpr hfar]
    rfl
  · rw [if_neg hmin.not_gt, if_pos hmax, detected_of_near hhi hlo]
    rfl
  · rw [if_neg (hinter.trans hlate).not_gt, if_neg hlate.not_gt]
    rfl

/-- Settles O34: `clapTransition_ofDoubleClap` on the two sides of the strict comparison. -/
theorem doubleClapConfirms : Obligations.DoubleClapConfirms := by
  intro s reading tick touch a _ _ hg hc ha
  rw [exec_sample_unguarded hg ha, clapTransition_ofDoubleClap (c := { s.clap with acc := a }) _ _ _ hc]
  refine ⟨fun hafter => ?_, fun hbefore => ?_⟩
  · rw [if_pos hafter]
    rfl
  · rw [if_neg hbefore.not_gt]
    rfl

/-- Settles O36: reset clears EVENT; in every other cycle `clapNext_event_iff` and `clapNext_event` speak of it. -/
theorem eventIsAOneCyclePulse : Obligations.EventIsAOneCyclePulse := by
  intro s t ht
  cases hr : s.inputs.rst
  case true =>
    rw [step_reset s hr] at ht
    cases ht
    exact ⟨⟨nofun, nofun⟩, nofun, nofun⟩
  case false =>
    obtain ⟨l, -, rfl⟩ := (step_next s t hr).mp ht
    refine ⟨(clapNext_event_iff ..).trans (and_iff_right rfl).symm, clapNext_event _ _ _, fun _ hv => ?_⟩
    simp only [clapNext, hv]
    rfl

/-- Settles O30, by `clapSample_guarded`. -/
theorem touchGuardSuppressesSample : Obligations.TouchGuardSuppressesSample := by
  intro s reading tick touch hg
  rw [exec_sample, clapSample_guarded hg]
  rfl

/-- Settles O38, by `clapSample_moveTick`. -/
theorem sampleIsInvariantUnderTickShift : Obligations.SampleIsInvariantUnderTickShift := by
  intro s t reading tick touch d ht
  rw [exec_sample] at ht
  cases ht
  rw [exec_sample]
  exact congrArg (fun c => Host.Outcome.next { s with clap := c }) (clapSample_moveTick ..)

end Sys2Proof.Machine
end

section
/-! RENDER (41_color_engine.md R140 to R149): its result as plain arithmetic, sector by sector, and the extremes of the
triple. -/

namespace Sys2Proof.Machine

/-! ## RENDER on the state -/

theorem exec_render_off (brightness hue : Nat) (s : State) :
    exec (.render false brightness hue) s = .next { s with rgb := ⟨0#8, 0#8, 0#8⟩ } := by
  rw [exec_render, renderOutput_off, renderDraws_off, Nat.add_zero]

theorem exec_render_inDomain {brightness hue : Nat} (hb : 1 ≤ brightness) (hb' : brightness ≤ 64) (hh : hue ≤ 191)
    (s : State) : exec (.render true brightness hue) s = .next { s with rgb := renderInDomain brightness hue } := by
  have hdom := (inDomain_iff brightness hue).mpr ⟨hb, hb', hh⟩
  rw [exec_render, renderOutput_inDomain _ _ _ hdom, renderDraws_inDomain _ _ hdom, Nat.add_zero]

/-! ## The triple before and after the offset -/

/-- A pre-offset triple with the offset added to each channel (R147). -/
def offsetTriple (m : Nat) (t : Nat × Nat × Nat) : Colour :=
  ⟨withOffset m t.1, withOffset m t.2.1, withOffset m t.2.2⟩

/-- RENDER in its domain with the sector as a quotient and lightness, chroma and offset given by their values. -/
theorem renderInDomain_eq {brightness v c m : Nat} (hv : lightness brightness = v) (hc : chroma v = c)
    (hm : v - (c >>> 1) = m) (hue : Nat) :
    renderInDomain brightness hue = offsetTriple m (sectorTriple (hue / 32) c (secondary c hue)) := by
  subst hv hc hm
  simp only [renderInDomain, offsetTriple, Nat.shiftRight_eq_div_pow, Nat.reducePow]

theorem withOffset_toNat {m channel : Nat} (h : channel + m ≤ 255) : (withOffset m channel).toNat = channel + m := by
  rw [withOffset, Nat.min_eq_left h, BitVec.toNat_ofNat, Nat.mod_eq_of_lt (by omega)]

theorem withOffset_white (channel : Nat) : withOffset 255 channel = 255#8 := by
  rw [withOffset, Nat.min_eq_right (Nat.le_add_left ..)]

/-- Every row of the sector table holds `c`, `x` and 0 once each (R145), so with `x ≤ c` the largest channel is `c` and
the smallest 0, and the offset moves both (R149). -/
theorem offsetTriple_extremes {c x m : Nat} (hx : x ≤ c) (hcm : c + m ≤ 255) (sector : Nat) :
    let col := offsetTriple m (sectorTriple sector c x)
    max (max col.r.toNat col.g.toNat) col.b.toNat = c + m ∧ min (min col.r.toNat col.g.toNat) col.b.toNat = m := by
  have htop := withOffset_toNat hcm
  have hmid := withOffset_toNat (m := m) (channel := x) (by omega)
  have hlow := withOffset_toNat (m := m) (channel := 0) (by omega)
  unfold sectorTriple
  split <;> simp only [offsetTriple, htop, hmid, hlow] <;> omega

/-! ## The statements -/

/-- Settles O39: `renderInDomain_eq` with each quantity in the arithmetic of its rule, read in each row of the sector
table. -/
theorem renderComputesTheColour : Obligations.RenderComputesTheColour := by
  refine fun s => ⟨fun brightness hue => exec_render_off brightness hue s, ?domain⟩
  intro brightness hue v c x m top mid low hb hb' hh hv hc hx hm htop hmid hlow
  have hle : v ≤ 255 := by omega
  have hchroma : chroma v = c := (chroma_eq v hle).trans hc.symm
  have hoffset : v - (c >>> 1) = m := by rw [← hchroma, offset_eq v hle, hm]
  rw [exec_render_inDomain hb hb' hh, renderInDomain_eq ((lightness_eq brightness).trans hv.symm) hchroma hoffset,
    (secondary_eq c hue).trans hx.symm]
  subst htop hmid hlow
  refine ⟨?_, ?_, ?_, ?_, ?_, ?_⟩
  all_goals
    intro hsector
    rw [hsector]
    rfl

/-- Settles O40: `offsetTriple_extremes` with `c + m` and `m` on either side of 127; full brightness has the offset
255. -/
theorem renderExtremes : Obligations.RenderExtremes := by
  intro s t brightness hue hb hb' hh h
  rw [exec_render_inDomain hb hb' hh] at h
  cases h
  obtain ⟨-, hv⟩ := lightness_range brightness
  obtain ⟨hmax, hmin⟩ := offsetTriple_extremes (secondary_le _ hue) (chroma_add_offset_le _ hv) (hue / 32)
  simp only [renderInDomain_eq rfl rfl rfl]
  refine ⟨hmax.trans ?largest, hmin.trans (offset_eq _ hv), ?white⟩
  case largest =>
    rw [offset_eq _ hv, chroma_eq _ hv]
    split <;> omega
  case white =>
    rintro rfl
    rw [show lightness 64 - (chroma (lightness 64) >>> 1) = 255 by decide, offsetTriple]
    simp only [withOffset_white]

/-- Settles O41: whatever its operands, RENDER writes the colour outputs and the draw counter alone (`exec_render`). -/
theorem renderOutsideItsDomainRuns : Obligations.RenderOutsideItsDomainRuns :=
  fun s brightness hue _ => ⟨_, _, exec_render true brightness hue s⟩

end Sys2Proof.Machine
end

section
/-! The five commands executed in IDLE (42_led_driver.md R161 to R165, R176), and the words that stand for them. -/

namespace Sys2Proof.Machine

/-! ## Words -/

/-- A command word decodes as the word put together from its fields does. -/
theorem decodeCmd_fields {w : CmdWord} {op : BitVec 4} (h : w.extractLsb' 40 4 = op) :
    decodeCmd w = decodeCmd (cmdWord op (cmdIdx w) (cmdR w) (cmdG w) (cmdB w)) := by
  subst h
  exact (decodeCmd_word ..).symm

/-! ## Commands without an effect, and those that change the buffer or DISPLAYED alone -/

variable {s : State}

/-- LOAD in IDLE at or above `N_LEDS` (R161). -/
theorem exec_load_outOfRange {idx : Nat} (r g b : Byte) (hi : s.led.phase = .idle) (hidx : s.params.nLeds ≤ idx) :
    exec (.load idx r g b) s = .next s :=
  exec_of_ledEffect (l := s.led) rfl (by simp [ledEffect, whenReady_idle _ _ _ hi, Nat.not_lt.mpr hidx])

/-- FILL in IDLE (R162). -/
theorem exec_fill (r g b : Byte) (hi : s.led.phase = .idle) :
    exec (.fill r g b) s = .next { s with
      led := { s.led with pix := Memory.fill s.led.pix s.params.nLeds (pixel r g b), displayed := false } } :=
  exec_of_ledEffect rfl (by rw [ledEffect, whenReady_idle _ _ _ hi]; rfl)

/-- INVALIDATE in IDLE (R163). -/
theorem exec_invalidate (hi : s.led.phase = .idle) :
    exec .invalidate s = .next { s with led := { s.led with displayed := false } } :=
  exec_of_ledEffect rfl (by rw [ledEffect, whenReady_idle _ _ _ hi]; rfl)

/-- REFRESH in IDLE with DISPLAYED = 1 (R164). -/
theorem exec_refresh_displayed (hi : s.led.phase = .idle) (hd : s.led.displayed = true) :
    exec .refresh s = .next s :=
  exec_of_ledEffect (l := s.led) rfl (by simp [ledEffect, whenReady_idle _ _ _ hi, hd])

end Sys2Proof.Machine

namespace Sys2Proof.Machine

/-! ## The statements -/

/-- Settles O7: in range the buffer is the old one with one pixel written (`Memory.read_write`). -/
theorem loadStoresOnePixel : Obligations.LoadStoresOnePixel := by
  obtain ⟨-, hdecode, -⟩ := commandReadsItsFieldsOnly
  refine ⟨fun w hw => (decodeCmd_fields hw).trans (hdecode ..),
    fun s idx r g b hi => ⟨fun hidx => ?inRange, ?outOfRange⟩⟩
  case inRange =>
    exact ⟨_, exec_load_inRange r g b hi hidx, (Memory.read_write ..).trans (if_pos rfl),
      fun j hj => (Memory.read_write ..).trans (if_neg hj)⟩
  case outOfRange => exact exec_load_outOfRange r g b hi

/-- Settles O8: the buffer is the old one with every implemented pixel written (`Memory.read_fill`). -/
theorem fillStoresEveryPixel : Obligations.FillStoresEveryPixel := by
  obtain ⟨-, -, hdecode, -⟩ := commandReadsItsFieldsOnly
  exact ⟨fun w hw => (decodeCmd_fields hw).trans (hdecode ..), fun s r g b hi =>
    ⟨_, exec_fill r g b hi, fun j hj => (Memory.read_fill ..).trans (if_pos hj),
      fun j hj => (Memory.read_fill ..).trans (if_neg (Nat.not_lt.mpr hj))⟩⟩

/-- Settles O6, by `exec_nop`. -/
theorem nopChangesNoState : Obligations.NopChangesNoState := by
  obtain ⟨hdecode, -⟩ := commandReadsItsFieldsOnly
  exact ⟨fun w hw => (decodeCmd_fields hw).trans (hdecode ..), exec_nop⟩

/-- Settles O9, by `exec_invalidate`. -/
theorem invalidateClearsDisplayed : Obligations.InvalidateClearsDisplayed := by
  obtain ⟨-, -, -, hdecode, -⟩ := commandReadsItsFieldsOnly
  exact ⟨fun w hw => (decodeCmd_fields hw).trans (hdecode ..), fun _ => exec_invalidate⟩

/-- Settles O10: `exec_refresh_displayed` and `exec_refresh_starts`, for the two values of DISPLAYED. -/
theorem refreshStartsTransmission : Obligations.RefreshStartsTransmission := by
  obtain ⟨-, -, -, -, hdecode, -⟩ := commandReadsItsFieldsOnly
  exact ⟨fun w hw => (decodeCmd_fields hw).trans (hdecode ..),
    fun _ hi => ⟨exec_refresh_displayed hi, exec_refresh_starts hi⟩⟩

end Sys2Proof.Machine
end

section
/-! The wire symbols one cycle at a time (42_led_driver.md R167 to R173): what the cycle does in each phase, executed as
the symbol on the wire, and no effect off the wire (log entry 7). -/

namespace Sys2Proof.Machine

variable {s : State} {p : Params} {l l' : Led}

/-! ## The last cycle of each part -/

/-- The last cycle of the high part (R168). -/
theorem busyNext_highEnd (hp : l.phase = .high) (hc : l.cnt = 0) :
    busyNext p l = .ok { l with phase := .low, cnt := tl p (wireBit l.shift) - 1 } := by
  simp [busyNext, hp, hc]

/-- The last cycle of the low part ends the symbol. -/
theorem busyNext_lowEnd (hp : l.phase = .low) (hc : l.cnt = 0) : busyNext p l = afterSymbol p l := by
  simp [busyNext, hp, hc]

/-- The next bit of the pixel (R170). -/
theorem afterSymbol_nextBit (hb : l.bitIdx ≠ 23#5) :
    afterSymbol p l = .ok (startSymbol p { l with bitIdx := l.bitIdx + 1#5 } (l.shift <<< 1)) :=
  if_pos hb

/-- The next pixel (R171). -/
theorem afterSymbol_nextPixel (hb : l.bitIdx = 23#5) (hn : l.ledIdx.toNat + 1 < p.nLeds) :
    afterSymbol p l =
      .ok (startSymbol p { l with ledIdx := BitVec.ofNat 16 (l.ledIdx.toNat + 1), bitIdx := 0#5 }
        (wire p.byteOrder (Memory.read l.pix (l.ledIdx.toNat + 1)))) := by
  rw [afterSymbol, if_neg (not_not_intro hb), if_pos (by omega), startPixel_ok _ _ _ hn]

theorem wireBit_shiftLeft_one (w : BitVec 24) : wireBit (w <<< 1) = w.getLsbD 22 := by
  simp [wireBit]

/-! ## Executed on the wire and off it -/

/-- Executing the symbol on the wire is the cycle itself. -/
theorem exec_symbol_next {bit : Bool} (hp : s.led.phase = .high ∨ s.led.phase = .low)
    (hbit : s.led.shift.getLsbD 23 = bit) (h : busyNext s.params s.led = .ok l) :
    exec (if bit then .sym1 else .sym0) s = .next { s with led := l } := by
  subst hbit
  have hb : s.led.phase ≠ .idle := by rcases hp with hp | hp <;> simp [hp]
  exact (exec_onWire hb (ledOperation_symbol hp)).trans ((onLed_eq_next ..).mpr ⟨l, h, rfl⟩)

theorem symbolCycle_offWire {bit : Bool} (h : ¬((l.phase = .high ∨ l.phase = .low) ∧ l.shift.getLsbD 23 = bit)) :
    symbolCycle bit p l = .ok l := by
  by_cases hbit : wireBit l.shift = bit
  · cases hp : l.phase
    case idle => simp only [symbolCycle, hp, ite_self]
    case high => exact absurd ⟨.inl hp, hbit⟩ h
    case low => exact absurd ⟨.inr hp, hbit⟩ h
    case latch => simp only [symbolCycle, hp, ite_self]
  · exact if_neg hbit

theorem latchCycle_offWire (h : l.phase ≠ .latch) : latchCycle l = l := by
  cases hp : l.phase
  case latch => exact absurd hp h
  all_goals simp only [latchCycle, hp]

end Sys2Proof.Machine

namespace Sys2Proof.Machine

/-! ## The statements -/

/-- Settles O16: CNT counts down, and its cycle at 0 is one of the three edges of `afterSymbol`. -/
theorem symbolLowPart : Obligations.SymbolLowPart := by
  intro s bit hp hbit _
  have hsym {l : Led} (h : busyNext s.params s.led = .ok l) := exec_symbol_next (.inr hp) hbit h
  refine ⟨fun hc => ?count, fun hc hb => ?nextBit, fun hc hb hn => ?nextPixel, fun hc hb hn => ?frameEnd⟩
  case count => exact hsym (busyNext_countDown (by simp [hp]) hc)
  case nextBit =>
    rw [hsym ((busyNext_lowEnd hp hc).trans (afterSymbol_nextBit hb)), ← wireBit_shiftLeft_one]
    rfl
  case nextPixel =>
    rw [hsym ((busyNext_lowEnd hp hc).trans (afterSymbol_nextPixel hb hn)), BitVec.ofNat_add, BitVec.ofNat_toNat,
      BitVec.setWidth_eq]
    rfl
  case frameEnd => exact hsym (busyNext_frameEnd ⟨hp, hc, hb, by omega⟩)

/-- Settles O15: CNT counts down, and its cycle at 0 begins the low part (`busyNext_highEnd`). -/
theorem symbolHighPart : Obligations.SymbolHighPart := by
  intro s bit hp hbit
  refine ⟨fun hc => exec_symbol_next (.inl hp) hbit (busyNext_countDown (by simp [hp]) hc), fun hc => ?_⟩
  rw [exec_symbol_next (.inl hp) hbit (busyNext_highEnd hp hc), ← hbit]
  rfl

/-- Settles O17: SYMLATCH executed in LATCH is the cycle itself (`exec_onWire`, `busyNext_latch`). -/
theorem latchCountsDownToIdle : Obligations.LatchCountsDownToIdle := by
  intro s hp
  have hexec := (exec_onWire (by simp [hp]) (ledOperation_latch (i := s.inputs) hp)).trans
    ((onLed_eq_next ..).mpr ⟨_, busyNext_latch hp, rfl⟩)
  exact ⟨fun hc => hexec.trans (by rw [if_pos hc]), fun hc => hexec.trans (by rw [if_neg (not_not_intro hc)])⟩

/-- Settles O18: off the wire each symbol leaves LedDriver as it is. -/
theorem symbolOffTheWireHasNoEffect : Obligations.SymbolOffTheWireHasNoEffect := fun s =>
  ⟨fun h => exec_of_ledEffect (l := s.led) rfl (symbolCycle_offWire h),
    fun h => exec_of_ledEffect (l := s.led) rfl (symbolCycle_offWire h),
    fun h => exec_of_ledEffect (l := s.led) rfl (congrArg Except.ok (latchCycle_offWire h))⟩

end Sys2Proof.Machine
end

section
/-! Transmissions as they start and end (42_led_driver.md R175, R183, R184), and the length of a frame (R181). -/

namespace Sys2Proof.Machine

/-! ## The length of a frame -/

theorem symWave_length (p : Params) (bit : Bool) : (symWave p bit).length = tbit p bit := by
  simp [symWave, highRun, lowRun, tbit]

@[simp] theorem pixelBits_length (o : ByteOrder) (v : Pixel) : (pixelBits o v).length = 24 := by
  simp [pixelBits]

theorem frameBits_length (p : Params) (m : Memory) : (frameBits p m).length = 24 * p.nLeds := by
  simp [frameBits, List.length_flatMap, Nat.mul_comm]

/-- A list of bits lasts one symbol of its kind for each of them. -/
theorem symbols_length (p : Params) (bits : List Bool) :
    (symbols p bits).length = bits.count false * (p.t0h + p.t0l) + bits.count true * (p.t1h + p.t1l) := by
  induction bits with
  | nil => simp [symbols]
  | cons bit rest ih =>
    rw [symbols, List.flatMap_cons, List.length_append, symWave_length, ← symbols, ih]
    cases bit
    all_goals
      simp [tbit, th, tl, Nat.add_mul]
      omega

/-- Settles O22: the bits of a frame are `24 · N_LEDS` (`frameBits_length`), each at most the longer symbol. -/
theorem frameLastsItsSymbols : Obligations.FrameLastsItsSymbols := by
  intro p m
  have hbits : (frameBits p m).count false + (frameBits p m).count true = 24 * p.nLeds :=
    (List.count_false_add_count_true _).trans (frameBits_length p m)
  refine ⟨symbols_length p _, fun hsame => ?equal, ?bound⟩
  case equal => rw [frameCycles, ← hsame, ← Nat.add_mul, hbits]
  case bound =>
    rw [frameCycles, ← hbits, Nat.add_mul]
    exact Nat.add_le_add (Nat.mul_le_mul_left _ (Nat.le_max_left ..)) (Nat.mul_le_mul_left _ (Nat.le_max_right ..))

/-! ## The start and the end of a transmission -/

theorem irqMask_iff (s : State) : s.irqMask = true ↔ s.led.phase = .high ∨ s.led.phase = .low := by
  simp [State.irqMask]

theorem irqMask_eq_false_iff (s : State) : s.irqMask = false ↔ ¬(s.led.phase = .high ∨ s.led.phase = .low) := by
  rw [← irqMask_iff, Bool.not_eq_true]

/-- A symbol on the wire is followed by another one except at the end of the frame. -/
theorem busyNext_leavesWire {p : Params} {l l' : Led} (hw : l.phase = .high ∨ l.phase = .low)
    (h : busyNext p l = .ok l') (hoff : ¬(l'.phase = .high ∨ l'.phase = .low)) : l.AtFrameEnd p := by
  have hb : l.phase ≠ .idle := by rcases hw with hp | hp <;> simp [hp]
  rcases busyNext_cases hb h with ⟨-, rfl⟩ | ⟨-, rfl⟩ | ⟨hp, hc, ha⟩ | ⟨hp, -⟩
  · exact absurd hw hoff
  · exact absurd (.inr rfl) hoff
  · rcases afterSymbol_cases ha with ⟨-, rfl⟩ | ⟨-, -, -, rfl⟩ | ⟨hbit, hidx, -⟩
    · exact absurd (.inl rfl) hoff
    · exact absurd (.inl rfl) hoff
    · exact ⟨hp, hc, hbit, hidx⟩
  · simp [hp] at hw

/-- Off the wire a symbol starts in the cycles in which a REFRESH is accepted with DISPLAYED = 0, and in no other. -/
theorem ledNext_entersWire_iff {s : State} {l : Led} (hoff : ¬(s.led.phase = .high ∨ s.led.phase = .low))
    (hr : s.inputs.rst = false) (hl : ledNext s.inputs s.params s.led = .ok l) :
    l.phase = .high ∨ l.phase = .low ↔ accepts s .refresh ∧ s.led.displayed = false := by
  by_cases hi : s.led.phase = .idle
  case pos =>
    rcases ledNext_idle_cases hi hr hl with ⟨rfl, hkeep⟩ | ⟨_, _, _, _, ⟨-, hacc⟩, -, rfl⟩ | ⟨_, _, _, ⟨-, hacc⟩, rfl⟩ |
      ⟨⟨-, hacc⟩, rfl⟩ | ⟨hacc, hd, -, rfl⟩
    · refine ⟨fun h => absurd h hoff, fun ⟨hacc, hd⟩ => ?_⟩
      simpa [hd] using hkeep _ hacc
    · simp [hi, accepts, hacc]
    · simp [hi, accepts, hacc]
    · simp [hi, accepts, hacc]
    · exact ⟨fun _ => ⟨hacc, hd⟩, fun _ => .inl rfl⟩
  case neg =>
    have hp : s.led.phase = .latch := by
      cases hp : s.led.phase <;> simp [hp] at hoff hi ⊢
    rw [ledNext_busy _ _ _ hi, busyNext_latch hp] at hl
    cases hl
    refine ⟨fun h => ?_, fun h => absurd h.1.1.idle hi⟩
    split at h <;> simp [hp] at h

/-! ## The statements -/

/-- Settles O23: `busyNext` reads LedDriver and the parameters alone, and it leaves the wire at the end of a frame
only. -/
theorem transmissionCannotBePreempted : Obligations.TransmissionCannotBePreempted := by
  refine ⟨fun s s' t hparams hled hb hr hr' ht => ?alone, fun s t ht hmask hmask' => ?ends⟩
  case alone =>
    obtain ⟨l, hl, rfl⟩ := (step_next s t hr).mp ht
    rw [ledNext_busy _ _ _ hb] at hl
    have hl' : ledNext s'.inputs s'.params s'.led = .ok l := by
      rw [hparams, hled, ledNext_busy _ _ _ hb, hl]
    exact ⟨_, (step_next s' _ hr').mpr ⟨l, hl', rfl⟩, rfl⟩
  case ends =>
    cases hr : s.inputs.rst
    case true => exact .inl rfl
    case false =>
      obtain ⟨l, hl, rfl⟩ := (step_next s t hr).mp ht
      rw [irqMask_iff] at hmask
      have hb : s.led.phase ≠ .idle := by rcases hmask with hp | hp <;> simp [hp]
      rw [ledNext_busy _ _ _ hb] at hl
      exact .inr (busyNext_leavesWire hmask hl ((irqMask_eq_false_iff _).mp hmask'))

/-- Settles O24: reset leaves PHASE = LATCH, and every other cycle is one of `ledNext_entersWire_iff`. -/
theorem irqMaskRisesOnlyOnRefresh : Obligations.IrqMaskRisesOnlyOnRefresh := by
  intro s t ht hmask
  cases hr : s.inputs.rst
  case true =>
    rw [step_reset s hr] at ht
    cases ht
    refine ⟨nofun, fun ⟨⟨⟨_, _, hr'⟩, _⟩, _⟩ => ?_⟩
    simp [hr] at hr'
  case false =>
    obtain ⟨l, hl, rfl⟩ := (step_next s t hr).mp ht
    rw [irqMask_iff]
    exact ledNext_entersWire_iff ((irqMask_eq_false_iff s).mp hmask) hr hl

/-- DISPLAYED stays 1 over a step without reset that accepts no clearing command (R180 (e)). -/
theorem step_keeps_displayed {s t : State} (hr : s.inputs.rst = false) (ht : step s = .next t)
    (hd : s.displayed = true) (hclear : ¬acceptsClearing s) : t.displayed = true := by
  obtain ⟨-, hfalls, -, -⟩ := displayedChangesOnlyAsListed s t hr ht
  by_contra h
  exact hclear (hfalls hd (Bool.eq_false_iff.mpr h))

/-- Settles O27: by induction over the cycles; DISPLAYED stays 1, so no REFRESH raises `irq_mask`. -/
theorem noFrameWithoutAChange : Obligations.NoFrameWithoutAChange := by
  intro n
  induction n with
  | zero => exact fun _ _ _ _ _ ht => absurd ht List.not_mem_nil
  | succ n ih =>
    intro s hd hmask hall
    obtain ⟨hr, hclear⟩ := hall s List.mem_cons_self
    cases hs : step s with
    | next u =>
      rw [states_succ hs] at hall ⊢
      have hmask' : u.irqMask = false := by
        rw [Bool.eq_false_iff, ne_eq, irqMaskRisesOnlyOnRefresh s u hs hmask, hd]
        exact fun h => Bool.noConfusion h.2
      have hd' := step_keeps_displayed hr hs hd hclear
      exact List.forall_mem_cons.mpr
        ⟨⟨hmask, hd⟩, ih u hd' hmask' fun t ht => hall t (List.mem_cons_of_mem s ht)⟩
    | fault r => simp [states, hs, hmask, hd]
    | refused r => exact absurd hs (step_ne_refused s r)

end Sys2Proof.Machine
end

section
/-! The waveform law (42_led_driver.md R180): what is still to be observed of a transmission, as a list that every cycle
shortens by its head. -/

namespace Sys2Proof.Machine

variable {p : Params} {l l' : Led}

/-! ## The bits of a frame still to be sent -/

/-- The bits of a frame from bit `j` of pixel `i` on, in wire order. -/
def bitsFrom (p : Params) (m : Memory) (i j : Nat) : List Bool :=
  ((List.range' i (p.nLeds - i)).flatMap fun k => pixelBits p.byteOrder (Memory.read m k)).drop j

theorem frameBits_eq_bitsFrom (p : Params) (m : Memory) : frameBits p m = bitsFrom p m 0 0 := by
  rw [frameBits, List.range_eq_range', bitsFrom, Nat.sub_zero, List.drop_zero]

/-- Bit `j` of a pixel is on the wire when the wire word is shifted by `j` (R89). -/
theorem pixelBits_drop (o : ByteOrder) (v : Pixel) {j : Nat} (h : j ≤ 23) :
    (pixelBits o v).drop j = wireBit (wire o v <<< j) :: (pixelBits o v).drop (j + 1) := by
  have hj : j < (pixelBits o v).length := by rw [pixelBits_length]; omega
  have hbit : (pixelBits o v)[j] = wireBit (wire o v <<< j) := by
    rw [List.getElem_eq_iff, pixelBits_getElem? o v (by omega)]
    simp only [wireBit, BitVec.getLsbD_shiftLeft, Nat.not_lt.mpr h, decide_false]
    rfl
  rw [List.drop_eq_getElem_cons hj, hbit]

variable {m : Memory} {i j : Nat}

/-- From a pixel of the frame on: the rest of its bits, and the pixels behind it. -/
theorem bitsFrom_eq_append (hi : i < p.nLeds) (hj : j ≤ 24) :
    bitsFrom p m i j = (pixelBits p.byteOrder (Memory.read m i)).drop j ++ bitsFrom p m (i + 1) 0 := by
  rw [bitsFrom, show p.nLeds - i = p.nLeds - (i + 1) + 1 by omega, List.range'_succ, List.flatMap_cons,
    List.drop_append_of_le_length (by rwa [pixelBits_length]), bitsFrom, List.drop_zero]

/-- The first of the bits left is on the wire, with its pixel's wire word shifted to it. -/
theorem bitsFrom_eq_cons (hi : i < p.nLeds) (hj : j ≤ 23) :
    bitsFrom p m i j = wireBit (wire p.byteOrder (Memory.read m i) <<< j) :: bitsFrom p m i (j + 1) := by
  rw [bitsFrom_eq_append hi (by omega), pixelBits_drop _ _ hj, List.cons_append, ← bitsFrom_eq_append hi (by omega)]

/-- After the last bit of a pixel the first bit of the next one follows. -/
theorem bitsFrom_nextPixel (hi : i < p.nLeds) : bitsFrom p m i 24 = bitsFrom p m (i + 1) 0 := by
  rw [bitsFrom_eq_append hi le_rfl, List.drop_eq_nil_of_le (pixelBits_length ..).le, List.nil_append]

theorem bitsFrom_frameEnd (hi : p.nLeds ≤ i) : bitsFrom p m i 0 = [] := by
  rw [bitsFrom, Nat.sub_eq_zero_of_le hi, List.range'_zero, List.flatMap_nil, List.drop_zero]

/-- The bits of a frame still to come after the one on the wire. -/
def Led.bitsLeft (p : Params) (l : Led) : List Bool := bitsFrom p l.pix l.ledIdx.toNat (l.bitIdx.toNat + 1)

/-! ## What is still to be observed -/

/-- What R180 speaks of in one cycle: `dout`, `irq_mask`, `cmd_ready`, `displayed` and PIX. -/
abbrev Row := Bool × Bool × Bool × Bool × Memory

/-- LedDriver's row. -/
def Led.row (l : Led) : Row :=
  (decide (l.phase = .high), decide (l.phase = .high) || decide (l.phase = .low), decide (l.phase = .idle),
    l.displayed, l.pix)

/-- The cycles of a transmission with the levels `w` on the wire. -/
def wireRows (m : Memory) (w : Wave) : List Row := w.map fun level => (level, true, false, false, m)

/-- `n` cycles of the latch interval, and the first ready one. -/
def latchRows (n : Nat) (displayed : Bool) (m : Memory) : List Row :=
  List.replicate n (false, false, false, displayed, m) ++ [(false, false, true, displayed, m)]

theorem wireRows_append_latchRows_length (m m' : Memory) (w : Wave) (n : Nat) (displayed : Bool) :
    (wireRows m w ++ latchRows n displayed m').length = w.length + n + 1 := by
  simp [wireRows, latchRows, Nat.add_assoc]

/-- The cycles from this one to the first ready one. -/
def Led.rowsToIdle (p : Params) (l : Led) : List Row :=
  match l.phase with
  | .idle => latchRows 0 l.displayed l.pix
  | .high =>
    wireRows l.pix (highRun (l.cnt + 1) ++ lowRun (tl p (wireBit l.shift)) ++ symbols p (l.bitsLeft p)) ++
      latchRows p.tReset true l.pix
  | .low => wireRows l.pix (lowRun (l.cnt + 1) ++ symbols p (l.bitsLeft p)) ++ latchRows p.tReset true l.pix
  | .latch => latchRows (l.cnt + 1) l.displayed l.pix

/-- From the first cycle of a symbol, its bit and those after it are still to come. -/
theorem rowsToIdle_startSymbol {w : BitVec 24} (hw : p.wf = true) (h : Led.Inv p (startSymbol p l w)) :
    (startSymbol p l w).rowsToIdle p =
      wireRows l.pix (symbols p (bitsFrom p l.pix l.ledIdx.toNat l.bitIdx.toNat)) ++ latchRows p.tReset true l.pix := by
  have hcnt : th p (wireBit w) - 1 + 1 = th p (wireBit w) := Nat.sub_add_cancel (th_pos hw _)
  have hbits : bitsFrom p l.pix l.ledIdx.toNat l.bitIdx.toNat = wireBit w :: (startSymbol p l w).bitsLeft p := by
    have hshift : w = wire p.byteOrder (Memory.read l.pix l.ledIdx.toNat) <<< l.bitIdx.toNat := h.shift (.inl rfl)
    rw [hshift]
    exact bitsFrom_eq_cons (h.ledIdx (.inl rfl)) (h.bitIdx (.inl rfl))
  simp only [Led.rowsToIdle, startSymbol_phase, startSymbol_cnt, startSymbol_shift, startSymbol_pix, hcnt, hbits,
    symbols, List.flatMap_cons, symWave]

/-- The edge that ends a symbol: the bits after it, and the latch interval, are still to come. -/
theorem rowsToIdle_afterSymbol (hw : p.wf = true) (h : Led.Inv p l) (hp : l.phase = .low)
    (ha : afterSymbol p l = .ok l') :
    l'.rowsToIdle p = wireRows l.pix (symbols p (l.bitsLeft p)) ++ latchRows p.tReset true l.pix := by
  have hfacts := Params.wf_facts hw
  have hinv := afterSymbol_inv hw h hp ha
  have hpixel : l.bitIdx = 23#5 → l.bitsLeft p = bitsFrom p l.pix (l.ledIdx.toNat + 1) 0 := by
    intro hb
    rw [Led.bitsLeft, hb]
    exact bitsFrom_nextPixel (h.ledIdx (.inr hp))
  rcases afterSymbol_cases ha with ⟨hb, rfl⟩ | ⟨hb, -, hn, rfl⟩ | ⟨hb, hlast, rfl⟩
  case inl =>
    have hnext : (l.bitIdx + 1#5).toNat = l.bitIdx.toNat + 1 := by
      have hbit := h.bitIdx (.inr hp)
      simp only [BitVec.toNat_add, BitVec.toNat_ofNat]
      omega
    rw [rowsToIdle_startSymbol hw hinv, hnext, Led.bitsLeft]
  case inr.inl =>
    have hnext : (BitVec.ofNat 16 (l.ledIdx.toNat + 1)).toNat = l.ledIdx.toNat + 1 := by
      rw [BitVec.toNat_ofNat]
      omega
    rw [rowsToIdle_startSymbol hw hinv, hnext, hpixel hb]
    rfl
  case inr.inr =>
    have hlatch : p.tReset - 1 + 1 = p.tReset := by omega
    rw [hpixel hb, bitsFrom_frameEnd (by omega)]
    simp only [Led.rowsToIdle, endTransmission_phase, endTransmission_cnt, endTransmission_displayed,
      endTransmission_pix, hlatch]
    rfl

/-- Every cycle takes the head of the list: what it shows itself. -/
theorem rowsToIdle_busyNext (hw : p.wf = true) (h : Led.Inv p l) (hb : l.phase ≠ .idle) (hn : busyNext p l = .ok l') :
    l.rowsToIdle p = l.row :: l'.rowsToIdle p := by
  by_cases hc : l.cnt = 0
  case neg =>
    obtain ⟨n, hcnt⟩ := Nat.exists_eq_succ_of_ne_zero hc
    rw [busyNext_countDown hb hc] at hn
    cases hn
    cases hp : l.phase
    case idle => exact absurd hp hb
    case high =>
      simp [Led.rowsToIdle, Led.row, wireRows, highRun, Led.bitsLeft, hp, hcnt, h.notDisplayed (.inl hp),
        List.replicate_succ]
    case low =>
      simp [Led.rowsToIdle, Led.row, wireRows, lowRun, Led.bitsLeft, hp, hcnt, h.notDisplayed (.inr hp),
        List.replicate_succ]
    case latch => simp [Led.rowsToIdle, Led.row, latchRows, hp, hcnt, List.replicate_succ]
  case pos =>
    cases hp : l.phase
    case idle => exact absurd hp hb
    case high =>
      have htl : tl p (wireBit l.shift) - 1 + 1 = tl p (wireBit l.shift) := Nat.sub_add_cancel (tl_pos hw _)
      rw [busyNext_highEnd hp hc] at hn
      cases hn
      simp [Led.rowsToIdle, Led.row, wireRows, highRun, Led.bitsLeft, hp, hc, htl, h.notDisplayed (.inl hp)]
    case low =>
      rw [busyNext_lowEnd hp hc] at hn
      rw [rowsToIdle_afterSymbol hw h hp hn]
      simp [Led.rowsToIdle, Led.row, wireRows, lowRun, hp, hc, h.notDisplayed (.inr hp)]
    case latch =>
      rw [busyNext_latch hp] at hn
      cases hn
      simp [Led.rowsToIdle, Led.row, latchRows, hp, hc]

theorem rowsToIdle_idle (hi : l.phase = .idle) : l.rowsToIdle p = [l.row] := by
  simp [Led.rowsToIdle, Led.row, latchRows, hi]

end Sys2Proof.Machine

namespace Sys2Proof.Machine

/-- Without a reset the run to the first ready cycle shows exactly what is still to be observed. -/
theorem states_rowsToIdle (s : State) (h : Inv s) (hq : noReset s.stimulus) :
    (states (s.led.rowsToIdle s.params).length s).map (fun u => u.led.row) = s.led.rowsToIdle s.params := by
  by_cases hi : s.led.phase = .idle
  · rw [rowsToIdle_idle hi, List.length_singleton, states_one, List.map_singleton]
  · obtain ⟨t, ht, hqt, hpt, hl⟩ := step_busy h hi hq
    have hrows : s.led.rowsToIdle s.params = s.led.row :: t.led.rowsToIdle t.params := by
      rw [hpt]
      exact rowsToIdle_busyNext h.params h.led hi hl
    have hlt : (t.led.rowsToIdle t.params).length < (s.led.rowsToIdle s.params).length := by simp [hrows]
    rw [hrows, List.length_cons, states_succ ht, List.map_cons,
      states_rowsToIdle t (stepKeepsTheInvariant s t h ht) hqt]
termination_by (s.led.rowsToIdle s.params).length

/-- LedDriver's next state where a REFRESH is accepted with DISPLAYED = 0 (R165). -/
theorem ledNext_refresh_starts {s : State} (hacc : accepts s .refresh) (hd : s.led.displayed = false)
    (hn : 1 ≤ s.params.nLeds) :
    ledNext s.inputs s.params s.led = .ok (startSymbol s.params { s.led with ledIdx := 0#16, bitIdx := 0#5 }
      (wire s.params.byteOrder (Memory.read s.led.pix 0))) := by
  obtain ⟨hcmd, hop⟩ := hacc
  have hexec := exec_refresh_starts hcmd.idle hd hn
  rw [exec_ledOperation rfl] at hexec
  obtain ⟨l, hl, heq⟩ := (onLed_eq_next ..).mp hexec
  rw [ledNext_accepted hcmd, hop, hl]
  exact congrArg Except.ok (congrArg State.led heq).symm

/-! ## The statement -/

/-- Settles O21: after the REFRESH the whole frame is still to come (`rowsToIdle_startSymbol`), and the run shows it
cycle by cycle (`states_rowsToIdle`). -/
theorem refreshSendsExactlyTheFrame : Obligations.RefreshSendsExactlyTheFrame := by
  refine ⟨fun s h hacc hd hq => ?frame, fun s t hr ht => step_keeps_displayed hr ht⟩
  have ⟨⟨_, _, hr⟩, _⟩ := hacc
  have ⟨hn, _⟩ := Params.wf_facts h.params
  have ht := (step_next s _ hr).mpr ⟨_, ledNext_refresh_starts hacc hd hn, rfl⟩
  have hinv := stepKeepsTheInvariant s _ h ht
  refine ⟨_, ht, ?_⟩
  have hrows := states_rowsToIdle _ hinv hq
  rw [rowsToIdle_startSymbol h.params hinv.led, wireRows_append_latchRows_length, wireRows, latchRows,
    ← List.append_assoc] at hrows
  rw [frameBits_eq_bitsFrom]
  exact hrows

end Sys2Proof.Machine
end

section
/-! No fault state (60_exceptions.md R200, R202): a command executed outside IDLE changes nothing, and a step from a
state with the invariant always answers a next state. -/

namespace Sys2Proof.Machine

/-! ## A command executed while PHASE is not IDLE -/

theorem ledEffect_command_busy {i : Instr} {l : Led} (p : Params) (hi : isCommand i = true) (hb : l.phase ≠ .idle) :
    ledEffect i p l = .ok l := by
  cases i
  case nop | load | fill | invalidate | refresh => simp only [ledEffect, whenReady_busy _ _ _ hb]
  case sample | render | sym0 | sym1 | symLatch => cases hi

theorem isLedOperation_of_isCommand {i : Instr} (h : isCommand i = true) : isLedOperation i = true := by
  cases i
  case sample | render => cases h
  all_goals rfl

/-! ## Completion in every phase -/

/-- A command accepted in IDLE completes: the one fetch, of REFRESH, is at index 0, and R9 asks for a pixel there. -/
theorem ledEffect_decodeCmd_idle_total {p : Params} {l : Led} (hn : 1 ≤ p.nLeds) (hi : l.phase = .idle) (w : CmdWord) :
    ∃ l', ledEffect (decodeCmd w) p l = .ok l' := by
  rcases decodeCmd_cases w with h | h | h | h | h <;> simp only [h, ledEffect, whenReady_idle _ _ _ hi]
  case inr.inr.inr.inr =>
    split
    · exact ⟨_, rfl⟩
    · exact ⟨_, startPixel_ok p l 0 hn⟩
  all_goals exact ⟨_, rfl⟩

theorem ledNext_idle_total {p : Params} {l : Led} (hn : 1 ≤ p.nLeds) (hi : l.phase = .idle) (i : Inputs) :
    ∃ l', ledNext i p l = .ok l' := by
  cases hv : i.cmdValid
  case false => exact ⟨l, by simp only [ledNext, ledOperation_idle_none hi hv]⟩
  case true =>
    simp only [ledNext, ledOperation_idle_command hi hv]
    exact ledEffect_decodeCmd_idle_total hn hi i.cmd

theorem ledNext_total {p : Params} {l : Led} (hw : p.wf = true) (h : Led.Inv p l) (i : Inputs) :
    ∃ l', ledNext i p l = .ok l' := by
  by_cases hi : l.phase = .idle
  · obtain ⟨hn, -⟩ := Params.wf_facts hw
    exact ledNext_idle_total hn hi i
  · rw [ledNext_busy _ _ _ hi]
    exact busyNext_total h

/-! ## The statements -/

/-- Settles O51: the reset edge always completes, and in every other cycle LedDriver does (`ledNext_total`). -/
theorem stepNeverStops : Obligations.StepNeverStops := by
  intro s h
  cases hr : s.inputs.rst
  case true => exact ⟨_, step_reset s hr⟩
  case false =>
    obtain ⟨l, hl⟩ := ledNext_total h.params h.led s.inputs
    exact ⟨_, (step_next s _ hr).mpr ⟨l, hl, rfl⟩⟩

/-- Settles O12, by `ledEffect_command_busy`. -/
theorem commandWhileBusyHasNoEffect : Obligations.CommandWhileBusyHasNoEffect := fun s _ hi hb =>
  exec_of_ledEffect (l := s.led) (isLedOperation_of_isCommand hi) (ledEffect_command_busy s.params hi hb)

end Sys2Proof.Machine
end

section
/-! The cycles between two transmissions (60_exceptions.md R209): the latch interval, the first ready cycle, in which
DISPLAYED is still 1, and the one after it. -/

namespace Sys2Proof.Machine

/-! ## Unmasked runs -/

/-- The next `n` cycles all run, with `irq_mask = 0` and `dout = 0` in each. -/
structure Unmasked (n : Nat) (s : State) : Prop where
  complete : (states n s).length = n
  quiet : ∀ u ∈ states n s, u.irqMask = false ∧ u.dout = false

variable {s t : State} {n : Nat}

theorem dout_of_unmasked (h : s.irqMask = false) : s.dout = false := by
  obtain ⟨-, -, -, -, -, -, hmask, -⟩ := outputsAreConsistent s
  exact Bool.eq_false_iff.mpr fun hd => Bool.eq_false_iff.mp h (hmask hd)

theorem Unmasked.one (h : s.irqMask = false) : Unmasked 1 s where
  complete := by rw [states_one, List.length_singleton]
  quiet := by simp [states_one, h, dout_of_unmasked h]

theorem Unmasked.cons (h : s.irqMask = false) (hs : step s = .next t) (ht : Unmasked n t) : Unmasked (n + 1) s where
  complete := by rw [states_succ hs, List.length_cons, ht.complete]
  quiet := by
    rw [states_succ hs]
    exact List.forall_mem_cons.mpr ⟨⟨h, dout_of_unmasked h⟩, ht.quiet⟩

/-! ## After a transmission -/

/-- The edge that ends a transmission, in a cycle without reset (R172). -/
theorem step_endsTransmission (hr : s.inputs.rst = false) (hs : step s = .next t) (hmask : s.irqMask = true)
    (hmask' : t.irqMask = false) : t.led = endTransmission s.params s.led := by
  obtain ⟨l, hl, rfl⟩ := (step_next s t hr).mp hs
  rw [irqMask_iff] at hmask
  have hb : s.led.phase ≠ .idle := by rcases hmask with hp | hp <;> simp [hp]
  rw [ledNext_busy _ _ _ hb] at hl
  rw [busyNext_frameEnd (busyNext_leavesWire hmask hl ((irqMask_eq_false_iff _).mp hmask'))] at hl
  exact (Except.ok.inj hl).symm

/-- A ready cycle with DISPLAYED = 1 and the one after it: a REFRESH accepted in the first does nothing (R164), and one
accepted in the second raises `irq_mask` only after it. -/
theorem unmasked_idle_displayed (hn : 1 ≤ s.params.nLeds) (hr : s.inputs.rst = false) (hi : s.led.phase = .idle)
    (hd : s.displayed = true) : Unmasked 2 s := by
  have hmask : s.irqMask = false := by simp [irqMask_eq_false_iff, hi]
  obtain ⟨l, hl⟩ := ledNext_idle_total hn hi s.inputs
  have hs := (step_next s _ hr).mpr ⟨l, hl, rfl⟩
  refine .cons hmask hs (.one ?_)
  rw [Bool.eq_false_iff, ne_eq, irqMaskRisesOnlyOnRefresh s _ hs hmask, hd]
  exact fun h => Bool.noConfusion h.2

/-- A latch interval after a frame, with `n` cycles to run after this one, and the two cycles behind it. -/
theorem unmasked_latch (n : Nat) : ∀ s : State, 1 ≤ s.params.nLeds → noReset s.stimulus → s.led.phase = .latch →
    s.led.cnt = n → s.displayed = true → Unmasked (n + 3) s := by
  induction n with
  | zero =>
    intro s hn hq hp hc hd
    obtain ⟨t, hs, hq', hled⟩ := step_latch hp hq
    rw [if_neg (not_not_intro hc)] at hled
    obtain ⟨hparams, -⟩ := step_next_frame hs
    exact .cons (by simp [irqMask_eq_false_iff, hp]) hs
      (unmasked_idle_displayed (by rwa [hparams]) (noReset_inputs hq') (by rw [hled]) (by rwa [State.displayed, hled]))
  | succ n ih =>
    intro s hn hq hp hc hd
    obtain ⟨t, hs, hq', hled⟩ := step_latch hp hq
    rw [if_pos (by omega), hc, Nat.add_sub_cancel] at hled
    obtain ⟨hparams, -⟩ := step_next_frame hs
    exact .cons (by simp [irqMask_eq_false_iff, hp]) hs
      (ih t (by rwa [hparams]) hq' (by rwa [hled]) (by rw [hled]) (by rwa [State.displayed, hled]))

end Sys2Proof.Machine

namespace Sys2Proof.Machine

/-! ## The statement -/

/-- Settles O28: the edge that ends the transmission leaves `TRESET - 1` cycles of the latch interval to run after the
next one, with DISPLAYED = 1 (`step_endsTransmission`, `unmasked_latch`). -/
theorem framesAreSeparated : Obligations.FramesAreSeparated := by
  intro s t hw hq hmask hs hmask'
  have hled := step_endsTransmission (noReset_inputs hq) hs hmask hmask'
  obtain ⟨hparams, hstim, -⟩ := step_next_frame hs
  have hfacts := Params.wf_facts hw
  have hrun : Unmasked (s.params.tReset - 1 + 3) t :=
    unmasked_latch _ t (by rw [hparams]; omega) (hstim ▸ noReset_rest hq) (by rw [hled]; rfl) (by rw [hled]; rfl)
      (by rw [State.displayed, hled]; rfl)
  rw [show s.params.tReset - 1 + 3 = s.params.tReset + 2 by omega] at hrun
  exact ⟨hrun.complete, hrun.quiet⟩

end Sys2Proof.Machine
end

section
/-! The reset edge (70_reset_and_hazards.md R230) and two of the reset values of R47 in the form a statement gives them:
the buffer as what reading an index gives, ACC as a product. -/

namespace Sys2Proof.Machine

/-- The pixel buffer after reset, at every index (R47). -/
@[simp] theorem Led.reset_read (p : Params) (i : Nat) : Memory.read (Led.reset p).pix i = 0#24 :=
  Memory.read_nil i

/-- ACC after reset, `AVG_RESET << 16` (R47), with the shift as a multiplication. -/
theorem Clap.reset_acc (p : Params) : (Clap.reset p).acc = BitVec.ofNat 26 (p.avgReset * 2 ^ 16) :=
  congrArg (BitVec.ofNat 26) (Nat.shiftLeft_eq p.avgReset 16)

/-- Settles O46: the state that a step with `rst = 1` answers has `Led.reset` and `Clap.reset` for its sub-blocks
(`step_reset`), so every element but the buffer and ACC is a field of one of the two as it stands. -/
theorem resetEdgeResetsEveryElement : Obligations.ResetEdgeResetsEveryElement := by
  intro s hr
  have hpix := Led.reset_read s.params
  have hacc := Clap.reset_acc s.params
  exact ⟨_, step_reset s hr, rfl, hpix, rfl, rfl, rfl, rfl, rfl, rfl, rfl, rfl, hacc, rfl⟩

end Sys2Proof.Machine
end
